-- ==== Sys2Proof/Word.lean ====
section
/-! DEFINITION. The widths of the block's values (10_state.md section 1, 30_encoding.md R61).
Everything is unsigned (00_scope.md R6). -/

namespace Sys2Proof

/-- A byte: a general register, a timer, a memory cell, an 8-bit immediate `kk` (R20, R29, R40, R61). -/
abbrev Byte := BitVec 8

/-- A 16-bit value: I, PC, a stack entry, an instruction word (R22, R23, R25, R60). -/
abbrev Word := BitVec 16

/-- A 4-bit field of an instruction word (R61). -/
abbrev Nibble := BitVec 4

/-- The number of a general register, V0 to VF (R20). -/
abbrev Reg := BitVec 4

/-- A 12-bit address immediate `nnn` (R61). -/
abbrev Addr := BitVec 12

/-- A key code, 0x0 to 0xF (00_scope.md R12). -/
abbrev Key := BitVec 4

/-- The index of a pixel, row-major: y times 64 plus x, 64 columns by 32 rows (10_state.md R31). -/
abbrev Pixel := Fin 2048

/-- The 80 bytes of a font, 16 glyphs of 5 bytes (20_memory.md R46). -/
abbrev FontTable := Vector Byte 80

end Sys2Proof
end

