-- ==== Sys2Proof/Config.lean ====
section
/-! DEFINITION. The block's parameters (00_scope.md R5) and the free values of the model.
A constant without a body is a value that the spec leaves open: nothing in Lean can evaluate it. -/

namespace Sys2Proof

/-- The two values of the parameter DRAW_EDGE (41_display.md R91). -/
inductive DrawEdge where
  | wrap
  | clip
  deriving DecidableEq, Repr, Inhabited

/-- DRAW_EDGE: what Dxyn does with pixels beyond the right or bottom edge.
OPEN in the spec (R5, R91, D11), so uninterpreted here (DESIGN CHOICE, log 8). -/
opaque Config.drawEdge : DrawEdge

/-- The key input of a step that the host's queue does not fix, by the number of the step
(00_scope.md R12, log 3). -/
opaque Config.freeKey : Nat → Option Key

/-- The random byte of a step that the host's queue does not fix, by the number of the step:
any value, under no law (00_scope.md R13, D20, log 3). -/
opaque Config.freeRandom : Nat → Byte

/-- TICK_SCHEDULE: how many ticks the host issues before a step that its queue does not fix, by the
number of the step. OPEN in the spec (60_exceptions.md R186, D2, log 3). -/
opaque Config.ticksBeforeStep : Nat → Nat

/-- A byte of the state after a fault, by the number of the step and an index
(60_exceptions.md R178, log 2). -/
opaque Config.afterFaultByte : Nat → Nat → Byte

/-- A 16-bit value of the state after a fault (R178, log 2). -/
opaque Config.afterFaultWord : Nat → Nat → Word

/-- A bit of the state after a fault (R178, log 2). -/
opaque Config.afterFaultBit : Nat → Nat → Bool

/-- The stack depth after a fault (R178, log 2). -/
opaque Config.afterFaultDepth : Nat → Fin 17

/-- The glyphs of the digits 0 to 3 of the default FONT_GLYPHS (20_memory.md R47). -/
def Config.font0to3 : List Byte :=
  [0xF0, 0x90, 0x90, 0x90, 0xF0] ++ [0x20, 0x60, 0x20, 0x20, 0x70] ++
  [0xF0, 0x10, 0xF0, 0x80, 0xF0] ++ [0xF0, 0x10, 0xF0, 0x10, 0xF0]

/-- The glyphs of the digits 4 to 7 (20_memory.md R47). -/
def Config.font4to7 : List Byte :=
  [0x90, 0x90, 0xF0, 0x10, 0x10] ++ [0xF0, 0x80, 0xF0, 0x10, 0xF0] ++
  [0xF0, 0x80, 0xF0, 0x90, 0xF0] ++ [0xF0, 0x10, 0x20, 0x40, 0x40]

/-- The glyphs of the digits 8 to B (20_memory.md R47). -/
def Config.font8toB : List Byte :=
  [0xF0, 0x90, 0xF0, 0x90, 0xF0] ++ [0xF0, 0x90, 0xF0, 0x10, 0xF0] ++
  [0xF0, 0x90, 0xF0, 0x90, 0x90] ++ [0xE0, 0x90, 0xE0, 0x90, 0xE0]

/-- The glyphs of the digits C to F (20_memory.md R47). -/
def Config.fontCtoF : List Byte :=
  [0xF0, 0x80, 0x80, 0x80, 0xF0] ++ [0xE0, 0x90, 0x90, 0x90, 0xE0] ++
  [0xF0, 0x80, 0xF0, 0x80, 0xF0] ++ [0xF0, 0x80, 0xF0, 0x80, 0x80]

/-- The default of the parameter FONT_GLYPHS (00_scope.md R5). PRESUMED (log 7): the source fixes the size
and the place of the font, and the spec takes the conventional table as the default (20_memory.md R46, R47,
D4). The parameter itself is an argument of the model: `State.resetWith` takes it and State holds it. -/
def Config.defaultFontGlyphs : FontTable :=
  ⟨(Config.font0to3 ++ Config.font4to7 ++ Config.font8toB ++ Config.fontCtoF).toArray, rfl⟩

/-- What a byte of memory holds after `Reset`, and so what an address that memory does not list reads
as, for a given FONT_GLYPHS: the font at 0x000 to 0x04F, 0x00 elsewhere (70_reset_and_hazards.md R200, R201,
log 24). -/
def Config.resetByte (font : FontTable) (addr : Nat) : Byte :=
  if h : addr < 80 then font[addr] else 0x00

end Sys2Proof
end

