-- ==== Sys2Proof/Machine/State.lean ====
section
/-! DEFINITION. The architectural state of the block (10_state.md), as plain data, and the state right
after `Reset` (70_reset_and_hazards.md R200). The last four fields are the model's own,
and the one before them is the parameter FONT_GLYPHS. -/

namespace Sys2Proof.Machine

/-- The faults of the block (60_exceptions.md R170). Each ends the step at once and is terminal (R177,
R178); the model answers it as the outcome `fault`, which carries no state, so that no claim can rest on
the state after it (safe, log 1). -/
inductive Fault where
  /-- Raised by a fetch, and by Dxyn, Fx33, Fx55 and Fx65, for the first byte address at or above 0x1000
  (R171). Safe: the spec gives this fault. -/
  | outOfBounds (address : Nat)
  /-- Raised by 2nnn when the stack holds 16 entries (R172). Safe: the spec gives this fault. -/
  | stackOverflow
  /-- Raised by 00EE when the stack is empty (R173). Safe: the spec gives this fault. -/
  | stackUnderflow
  /-- Raised at dispatch for a word that is no instruction; `pc` is the address the word was fetched from
  (R174). Safe: the spec gives this fault. -/
  | unknownOpcode (rawWord pc : Word)
  /-- Returned by `LoadRom` for a ROM of more than 0xE00 bytes, never by a step (R175). Safe: the spec
  gives this fault. -/
  | romTooLarge (length : Nat)
  deriving DecidableEq, Repr

/-- The numbers the spec gives the faults (R170). -/
def Fault.code : Fault → Nat
  | .outOfBounds _ => 1
  | .stackOverflow => 2
  | .stackUnderflow => 3
  | .unknownOpcode _ _ => 4
  | .romTooLarge _ => 5

/-- What the model refuses. -/
inductive Refusal where
  /-- Raised by `exec` for an instruction that has no meaning yet; no instruction is in that case.
  Safe: the run stops. -/
  | notModelled (mnemonic : String)
  /-- Raised by the transaction `LoadRom` when it does not come between `Reset` and the first `Step`, or
  comes a second time (70_reset_and_hazards.md R206, R203, log 22). Safe: the state stays as it is. -/
  | loadRomNotAdmitted
  deriving DecidableEq, Repr

/-- How far the boot order of 70_reset_and_hazards.md R203 has come; `LoadRom` is admitted in the first
phase only (R206, log 22). -/
inductive BootPhase where
  | awaitingRom
  | romLoaded
  | running
  deriving DecidableEq, Repr

/-- One turn of the host's driving loop, as far as it is known in advance: the ticks due before the step
(60_exceptions.md R186) and the step's inputs (00_scope.md R12, R13). The model's own record (log 3). -/
structure HostTurn where
  ticks : Nat
  key : Option Key
  rnd : Byte
  deriving DecidableEq, Repr

/-- The memory array of 20_memory.md R40 as a list of addresses and bytes in canonical form (log 24):
strictly rising addresses, no byte equal to what `Config.resetByte` gives for the state's FONT_GLYPHS. -/
abbrev Memory := List Host.Cell

/-- The state of the block. -/
structure State where
  /-- V0 to VF (10_state.md R20, R21). -/
  v : Vector Byte 16
  /-- The index register I (R22). -/
  i : Word
  /-- The program counter; during execution the fetch address plus 2 (R23). -/
  pc : Word
  /-- The return addresses (R25). -/
  stack : Vector Word 16
  /-- The stack depth, 0 to 16 (R26). -/
  sp : Fin 17
  /-- The delay timer (R29). -/
  dt : Byte
  /-- The sound timer (R30). -/
  st : Byte
  /-- The video buffer, pixel y times 64 plus x (R31). -/
  vid : Vector Bool 2048
  /-- The memory (R32, 20_memory.md R40). -/
  mem : Memory
  /-- The output flag `clear` (R33). -/
  clear : Bool
  /-- The output flag `draw` (R33). -/
  draw : Bool
  /-- The fault latch (R34). -/
  faultLatch : Option Fault
  /-- Where in the boot order the machine is (70_reset_and_hazards.md R203, R206). -/
  bootPhase : BootPhase
  /-- The parameter FONT_GLYPHS, an argument of the model (00_scope.md R5, 20_memory.md R47, log 30): what
  `Reset` puts at 0x000 to 0x04F. No transaction changes it. -/
  fontGlyphs : FontTable
  /-- The model's own: the `key` input of the step being executed (00_scope.md R12, log 3). -/
  keyIn : Option Key
  /-- The model's own: the `rnd` input of the step being executed (00_scope.md R13, log 3). -/
  rndIn : Byte
  /-- The model's own: the host's coming turns, oldest first (log 3). -/
  hostQueue : List HostTurn
  /-- The model's own: how many steps have begun; the free values are applied to it (log 3). -/
  stepCount : Nat
  deriving DecidableEq, Repr

/-- The state right after `Reset`, for a given FONT_GLYPHS (70_reset_and_hazards.md R200). The values the
source fixes are the PC, the empty stack and the font in place; the zeros are the spec's decision D3 (log 5).
Memory lists nothing: every byte reads as `Config.resetByte font`. The boot phase: log 22. The model's own fields: log 6. -/
def State.resetWith (font : FontTable) : State where
  v := Vector.replicate 16 0x00
  i := 0x0000
  pc := 0x0200
  stack := Vector.replicate 16 0x0000
  sp := 0
  dt := 0x00
  st := 0x00
  vid := Vector.replicate 2048 false
  mem := []
  clear := false
  draw := false
  faultLatch := none
  bootPhase := .awaitingRom
  fontGlyphs := font
  keyIn := none
  rndIn := 0x00
  hostQueue := []
  stepCount := 0

/-- The state right after `Reset` with the default of FONT_GLYPHS (20_memory.md R47, log 7). -/
def State.reset : State :=
  State.resetWith Config.defaultFontGlyphs

end Sys2Proof.Machine
end

