-- ==== Sys2Proof/Machine/Operands.lean ====
section
/-! DEFINITION. The operand forms of the block: the general registers (10_state.md R20, R21), the
zero-extended immediates (30_encoding.md R63), the index-relative address (20_memory.md R51) and the
step's inputs (00_scope.md R12, R13). -/

namespace Sys2Proof.Machine

/-- VF, register 15, also the block's only flag (10_state.md R21). -/
abbrev regF : Reg := 0xF

/-- `V[x]` (00_scope.md R7). -/
def State.getV (s : State) (x : Reg) : Byte :=
  s.v[x.toNat]

/-- `V[x] <- b` (00_scope.md R7). No register is hard-wired (10_state.md R20). -/
def State.setV (s : State) (x : Reg) (b : Byte) : State :=
  { s with v := s.v.set x.toNat b }

/-- `V[k] <- bs[k]` for every k below the length of `bs`, the other registers kept (44_index_memory.md
R145). -/
def State.setFirstRegs (s : State) (bs : List Byte) : State :=
  { s with v := Vector.ofFn fun k => bs.getD k.val s.v[k.val] }

/-- V0 to V[x], in order (44_index_memory.md R144). -/
def State.firstRegs (s : State) (x : Reg) : List Byte :=
  s.v.toList.take (x.toNat + 1)

/-- `zext_16(nnn)` (30_encoding.md R63). -/
def zextAddr (nnn : Addr) : Word :=
  nnn.setWidth 16

/-- `zext_16(V[x])` (30_encoding.md R63). -/
def zextByte (b : Byte) : Word :=
  b.setWidth 16

/-- The effective address of byte k of an access through I: I + k as an integer, never truncated
(20_memory.md R51). -/
def State.effAddr (s : State) (k : Nat) : Nat :=
  s.i.toNat + k

/-- The key code as the byte that Fx0A stores, 0x00 to 0x0F (45_keypad_timers.md R163). -/
def keyByte (k : Key) : Byte :=
  k.setWidth 8

/-- `key != none and key == V[x]`, for the byte V[x]: a byte of 0x10 or more equals no key code
(45_keypad_timers.md R160). -/
def State.keyPressed (s : State) (b : Byte) : Bool :=
  match s.keyIn with
  | none => false
  | some k => keyByte k == b

end Sys2Proof.Machine
end

