-- ==== Sys2Proof/Machine/Flags.lean ====
section
/-! DEFINITION. The results and flags of the arithmetic instructions (43_alu.md R131): the exact integer
is computed first and then reduced modulo 256, and the flag is a comparison on the exact values. -/

namespace Sys2Proof.Machine

/-- The byte VF receives for a flag: 1 or 0 (10_state.md R21). -/
def flagByte (b : Bool) : Byte :=
  if b then 0x01 else 0x00

/-- "sum mod 256" (43_alu.md R126, and R121 without the flag). -/
def addResult (a b : Byte) : Byte :=
  BitVec.ofNat 8 (a.toNat + b.toNat)

/-- The carry of 8xy4: "sum > 255" (R126, R131). -/
def addCarry (a b : Byte) : Bool :=
  decide (a.toNat + b.toNat > 255)

/-- "(a - b) mod 256" (R127, and R129 with the operands exchanged). -/
def subResult (a b : Byte) : Byte :=
  BitVec.ofInt 8 ((a.toNat : Int) - (b.toNat : Int))

/-- The flag of 8xy5 and 8xy7: the strict comparison, 0 when the operands are equal (R127, R131,
conflict C1). -/
def subNoBorrow (a b : Byte) : Bool :=
  decide (a.toNat > b.toNat)

/-- "a >> 1" (R128). -/
def shrResult (a : Byte) : Byte :=
  BitVec.ofNat 8 (a.toNat / 2)

/-- The bit that 8xy6 shifts out, bit 0 of the old value (R128). -/
def shrOut (a : Byte) : Bool :=
  a.getLsbD 0

/-- "(a << 1) mod 256" (R130). -/
def shlResult (a : Byte) : Byte :=
  BitVec.ofNat 8 (a.toNat * 2)

/-- The bit that 8xyE shifts out, bit 7 of the old value (R130). -/
def shlOut (a : Byte) : Bool :=
  a.getLsbD 7

/-- `V[x] <- result`, then VF: the flag is written last, so that with x = 0xF the flag is what VF holds
(70_reset_and_hazards.md R210, conflict C2). -/
def State.setResultAndFlag (s : State) (x : Reg) (result : Byte) (flag : Bool) : State :=
  (s.setV x result).setV regF (flagByte flag)

/-- The decimal digits of a byte: hundreds, tens, ones (44_index_memory.md R143). -/
def bcdDigits (b : Byte) : List Byte :=
  [BitVec.ofNat 8 (b.toNat / 100), BitVec.ofNat 8 (b.toNat / 10 % 10), BitVec.ofNat 8 (b.toNat % 10)]

end Sys2Proof.Machine
end

