-- ==== Sys2Proof/Syntax.lean ====
section
/-! DEFINITION. The 34 instructions of the block (30_encoding.md R64), one constructor for each row of
the opcode table. Every operand has exactly the width of its field (R61), so that no term of `Instr`
stands for an operand the encoding cannot hold. -/

namespace Sys2Proof

/-- The instructions. A constructor's docstring gives its pattern and its rule. -/
inductive Instr where
  /-- 00E0: clear the video buffer (41_display.md R90). -/
  | cls
  /-- 00EE: return from subroutine (42_control_flow.md R100). -/
  | ret
  /-- 1nnn: jump (R101). -/
  | jp (nnn : Addr)
  /-- 2nnn: call (R102). -/
  | call (nnn : Addr)
  /-- 3xkk: skip if V[x] = kk (R103). -/
  | seByte (x : Reg) (kk : Byte)
  /-- 4xkk: skip if V[x] ≠ kk (R104). -/
  | sneByte (x : Reg) (kk : Byte)
  /-- 5xy0: skip if V[x] = V[y] (R105). -/
  | seReg (x y : Reg)
  /-- 6xkk: V[x] <- kk (43_alu.md R120). -/
  | ldByte (x : Reg) (kk : Byte)
  /-- 7xkk: V[x] <- V[x] + kk, no flag (R121). -/
  | addByte (x : Reg) (kk : Byte)
  /-- 8xy0: V[x] <- V[y] (R122). -/
  | ldReg (x y : Reg)
  /-- 8xy1: OR (R123). -/
  | orReg (x y : Reg)
  /-- 8xy2: AND (R124). -/
  | andReg (x y : Reg)
  /-- 8xy3: XOR (R125). -/
  | xorReg (x y : Reg)
  /-- 8xy4: add, carry to VF (R126). -/
  | addReg (x y : Reg)
  /-- 8xy5: V[x] - V[y], no-borrow to VF (R127). -/
  | subReg (x y : Reg)
  /-- 8xy6: shift right, bit 0 to VF; y is encoded but not read (R128, R67). -/
  | shr (x y : Reg)
  /-- 8xy7: V[y] - V[x], no-borrow to VF (R129). -/
  | subnReg (x y : Reg)
  /-- 8xyE: shift left, bit 7 to VF; y is encoded but not read (R130, R67). -/
  | shl (x y : Reg)
  /-- 9xy0: skip if V[x] ≠ V[y] (42_control_flow.md R106). -/
  | sneReg (x y : Reg)
  /-- Annn: I <- nnn (44_index_memory.md R140). -/
  | ldI (nnn : Addr)
  /-- Bnnn: jump to nnn + V0 (42_control_flow.md R107). -/
  | jpV0 (nnn : Addr)
  /-- Cxkk: V[x] <- random AND kk (43_alu.md R132). -/
  | rnd (x : Reg) (kk : Byte)
  /-- Dxyn: draw an n-row sprite at (V[x], V[y]), collision to VF (41_display.md R92). -/
  | drw (x y : Reg) (n : Nibble)
  /-- Ex9E: skip if key V[x] is pressed (45_keypad_timers.md R160). -/
  | skp (x : Reg)
  /-- ExA1: skip if key V[x] is not pressed (R161). -/
  | sknp (x : Reg)
  /-- Fx07: V[x] <- DT (R162). -/
  | ldRegDt (x : Reg)
  /-- Fx0A: wait for a key, V[x] <- key (R163). -/
  | ldRegKey (x : Reg)
  /-- Fx15: DT <- V[x] (R164). -/
  | ldDtReg (x : Reg)
  /-- Fx18: ST <- V[x] (R165). -/
  | ldStReg (x : Reg)
  /-- Fx1E: I <- I + V[x] (44_index_memory.md R141). -/
  | addI (x : Reg)
  /-- Fx29: I <- font address of the digit V[x] (R142). -/
  | ldFont (x : Reg)
  /-- Fx33: store the decimal digits of V[x] at I (R143). -/
  | ldBcd (x : Reg)
  /-- Fx55: store V0 to V[x] at I (R144). -/
  | storeRegs (x : Reg)
  /-- Fx65: load V0 to V[x] from I (R145). -/
  | loadRegs (x : Reg)
  deriving DecidableEq, Repr

/-- The instruction's mnemonic as spec/opcode_table.json spells it (30_encoding.md R68). -/
def Instr.mnemonic : Instr → String
  | .cls => "CLS"
  | .ret => "RET"
  | .jp _ => "JP_addr"
  | .call _ => "CALL_addr"
  | .seByte _ _ => "SE_Vx__byte"
  | .sneByte _ _ => "SNE_Vx__byte"
  | .seReg _ _ => "SE_Vx__Vy"
  | .ldByte _ _ => "LD_Vx__byte"
  | .addByte _ _ => "ADD_Vx__byte"
  | .ldReg _ _ => "LD_Vx__Vy"
  | .orReg _ _ => "OR_Vx__Vy"
  | .andReg _ _ => "AND_Vx__Vy"
  | .xorReg _ _ => "XOR_Vx__Vy"
  | .addReg _ _ => "ADD_Vx__Vy"
  | .subReg _ _ => "SUB_Vx__Vy"
  | .shr _ _ => "SHR_Vx__Vy"
  | .subnReg _ _ => "SUBN_Vx__Vy"
  | .shl _ _ => "SHL_Vx__Vy"
  | .sneReg _ _ => "SNE_Vx__Vy"
  | .ldI _ => "LD_I__addr"
  | .jpV0 _ => "JP_V0__addr"
  | .rnd _ _ => "RND_Vx__byte"
  | .drw _ _ _ => "DRW_Vx__Vy__nibble"
  | .skp _ => "SKP_Vx"
  | .sknp _ => "SKNP_Vx"
  | .ldRegDt _ => "LD_Vx__DT"
  | .ldRegKey _ => "LD_Vx__K"
  | .ldDtReg _ => "LD_DT__Vx"
  | .ldStReg _ => "LD_ST__Vx"
  | .addI _ => "ADD_I__Vx"
  | .ldFont _ => "LD_F__Vx"
  | .ldBcd _ => "LD_B__Vx"
  | .storeRegs _ => "LD__I___Vx"
  | .loadRegs _ => "LD_Vx___I"

end Sys2Proof
end

