-- ==== Sys2Proof/WellFormed.lean ====
section
/-! DEFINITION. What is well formed: the words that are instructions, by the opcode map of
30_encoding.md R64 written as the spec writes it (a match and a mask for each row), and the ROM images
the block accepts (70_reset_and_hazards.md R205).

A term of `Instr` needs no check of its own: each operand's type is as wide as its field (R61). The
decoder (Decode.lean) does not use this map: it dispatches on the fields, and that the two agree is a
statement about the model. -/

namespace Sys2Proof

/-- One row of the opcode map: the instruction's mnemonic, the fixed bits and where they stand. -/
structure OpcodeRow where
  mnemonic : String
  pattern : Word
  mask : Word
  deriving DecidableEq, Repr

/-- "A word selects the instruction of the row with (w AND mask) == match" (R64). -/
def OpcodeRow.selects (row : OpcodeRow) (w : Word) : Bool :=
  w &&& row.mask == row.pattern

/-- The rows of families 0 to 7 (R64). -/
def opcodeRows0to7 : List OpcodeRow :=
  [⟨"CLS", 0x00E0, 0xFFFF⟩, ⟨"RET", 0x00EE, 0xFFFF⟩, ⟨"JP_addr", 0x1000, 0xF000⟩,
   ⟨"CALL_addr", 0x2000, 0xF000⟩, ⟨"SE_Vx__byte", 0x3000, 0xF000⟩, ⟨"SNE_Vx__byte", 0x4000, 0xF000⟩,
   ⟨"SE_Vx__Vy", 0x5000, 0xF00F⟩, ⟨"LD_Vx__byte", 0x6000, 0xF000⟩, ⟨"ADD_Vx__byte", 0x7000, 0xF000⟩]

/-- The rows of families 8 and 9 (R64). -/
def opcodeRows8to9 : List OpcodeRow :=
  [⟨"LD_Vx__Vy", 0x8000, 0xF00F⟩, ⟨"OR_Vx__Vy", 0x8001, 0xF00F⟩, ⟨"AND_Vx__Vy", 0x8002, 0xF00F⟩,
   ⟨"XOR_Vx__Vy", 0x8003, 0xF00F⟩, ⟨"ADD_Vx__Vy", 0x8004, 0xF00F⟩, ⟨"SUB_Vx__Vy", 0x8005, 0xF00F⟩,
   ⟨"SHR_Vx__Vy", 0x8006, 0xF00F⟩, ⟨"SUBN_Vx__Vy", 0x8007, 0xF00F⟩, ⟨"SHL_Vx__Vy", 0x800E, 0xF00F⟩,
   ⟨"SNE_Vx__Vy", 0x9000, 0xF00F⟩]

/-- The rows of families A to E (R64). -/
def opcodeRowsAtoE : List OpcodeRow :=
  [⟨"LD_I__addr", 0xA000, 0xF000⟩, ⟨"JP_V0__addr", 0xB000, 0xF000⟩, ⟨"RND_Vx__byte", 0xC000, 0xF000⟩,
   ⟨"DRW_Vx__Vy__nibble", 0xD000, 0xF000⟩, ⟨"SKP_Vx", 0xE09E, 0xF0FF⟩, ⟨"SKNP_Vx", 0xE0A1, 0xF0FF⟩]

/-- The rows of family F (R64). -/
def opcodeRowsF : List OpcodeRow :=
  [⟨"LD_Vx__DT", 0xF007, 0xF0FF⟩, ⟨"LD_Vx__K", 0xF00A, 0xF0FF⟩, ⟨"LD_DT__Vx", 0xF015, 0xF0FF⟩,
   ⟨"LD_ST__Vx", 0xF018, 0xF0FF⟩, ⟨"ADD_I__Vx", 0xF01E, 0xF0FF⟩, ⟨"LD_F__Vx", 0xF029, 0xF0FF⟩,
   ⟨"LD_B__Vx", 0xF033, 0xF0FF⟩, ⟨"LD__I___Vx", 0xF055, 0xF0FF⟩, ⟨"LD_Vx___I", 0xF065, 0xF0FF⟩]

/-- The complete opcode map: the 34 rows of R64. -/
def opcodeRows : List OpcodeRow :=
  opcodeRows0to7 ++ opcodeRows8to9 ++ opcodeRowsAtoE ++ opcodeRowsF

/-- A word is well formed when it is one of the 34 instructions: some row selects it (R64, R66). -/
def wellFormedWord (w : Word) : Bool :=
  opcodeRows.any fun row => row.selects w

/-- The longest ROM: 0x1000 - 0x200 = 0xE00 bytes (00_scope.md R5). -/
def maxRomLength : Nat := 0xE00

/-- A ROM image is well formed when it fits between 0x200 and the end of memory (R205). -/
def wellFormedRom (bytes : List Byte) : Bool :=
  decide (bytes.length ≤ maxRomLength)

end Sys2Proof
end

