-- ==== Sys2Proof/Machine/Ops.lean ====
section
/-! DEFINITION. The named operations over memory, the stack, the special registers, the video buffer and
the timers, and fault entry (20_memory.md, 10_state.md, 41_display.md, 60_exceptions.md). -/

namespace Sys2Proof.Machine

/-- The three outcomes of a step of this machine. -/
abbrev Outcome := Host.Outcome State Fault Refusal

/-- `raise E`: an operation's fault ends the instruction at once with that fault, and nothing after it
happens (00_scope.md R7, 60_exceptions.md R177). -/
def outcomeOf : Except Fault State → Outcome
  | .ok s => .next s
  | .error e => .fault e

/-! ## Memory (20_memory.md) -/

/-- The byte listed at an address, if one is. -/
def Memory.lookup : Memory → Nat → Option Byte
  | [], _ => none
  | (k, b) :: rest, a => if a = k then some b else if a < k then none else Memory.lookup rest a

/-- The byte at an address: the listed one, else what it held after reset (log 24). -/
def Memory.read (font : FontTable) (m : Memory) (a : Nat) : Byte :=
  (m.lookup a).getD (Config.resetByte font a)

/-- `Mem[a] <- b`, in canonical form: a byte equal to the reset contents is not listed (log 24). -/
def Memory.write (font : FontTable) : Memory → Nat → Byte → Memory
  | [], a, b => if b = Config.resetByte font a then [] else [(a, b)]
  | (k, c) :: rest, a, b =>
    if a < k then
      if b = Config.resetByte font a then (k, c) :: rest else (a, b) :: (k, c) :: rest
    else if a = k then
      if b = Config.resetByte font a then rest else (a, b) :: rest
    else
      (k, c) :: Memory.write font rest a b

/-- The canonical form, from an address upward: strictly rising addresses below 0x1000, no byte equal to
the reset contents. -/
def Memory.wfFrom (font : FontTable) : Nat → Memory → Bool
  | _, [] => true
  | lo, (k, b) :: rest =>
    decide (lo ≤ k) && decide (k < 0x1000) && (b != Config.resetByte font k) &&
      Memory.wfFrom font (k + 1) rest

/-- The memory is in canonical form (log 24). -/
def Memory.wf (font : FontTable) (m : Memory) : Bool :=
  Memory.wfFrom font 0 m

/-- The canonical memory whose bytes from `lo` on, `count` of them, are given by a function. -/
def Memory.ofBytes (font : FontTable) (f : Nat → Byte) : Nat → Nat → Memory
  | _, 0 => []
  | lo, count + 1 =>
    if f lo = Config.resetByte font lo then Memory.ofBytes font f (lo + 1) count
    else (lo, f lo) :: Memory.ofBytes font f (lo + 1) count

/-- `MemRead(addr, 1)` (R41). -/
def memRead (font : FontTable) (m : Memory) (addr : Nat) : Except Fault Byte :=
  if addr < 0x1000 then .ok (m.read font addr) else .error (.outOfBounds addr)

/-- `MemWrite(addr, 1, b)` (R42). No address below 0x1000 is protected (R48). -/
def memWrite (font : FontTable) (m : Memory) (addr : Nat) (b : Byte) : Except Fault Memory :=
  if addr < 0x1000 then .ok (m.write font addr b) else .error (.outOfBounds addr)

/-- The bytes at `addr`, `addr + 1`, ..., `count` of them, read one at a time in rising order; the first
that is out of bounds faults (R49, R51, 60_exceptions.md R179). -/
def readBytes (font : FontTable) (m : Memory) (addr : Nat) : Nat → Except Fault (List Byte)
  | 0 => .ok []
  | count + 1 =>
    match memRead font m addr with
    | .error e => .error e
    | .ok b =>
      match readBytes font m (addr + 1) count with
      | .error e => .error e
      | .ok bs => .ok (b :: bs)

/-- The bytes written to `addr`, `addr + 1`, ..., one at a time in rising order; the first that is out of
bounds faults (R49, R51, 60_exceptions.md R179). -/
def writeBytes (font : FontTable) (m : Memory) (addr : Nat) : List Byte → Except Fault Memory
  | [] => .ok m
  | b :: bs =>
    match memWrite font m addr b with
    | .error e => .error e
    | .ok m' => writeBytes font m' (addr + 1) bs

/-- The byte of memory at an address, for an observer (00_scope.md R16). -/
def State.byteAt (s : State) (a : Nat) : Byte :=
  s.mem.read s.fontGlyphs a

/-! ## Special registers, output flags, video buffer -/

/-- `pc <- target`. -/
def State.setPc (s : State) (target : Word) : State :=
  { s with pc := target }

/-- `I <- a`. -/
def State.setI (s : State) (a : Word) : State :=
  { s with i := a }

/-- `DT <- b`. -/
def State.setDt (s : State) (b : Byte) : State :=
  { s with dt := b }

/-- `ST <- b`. -/
def State.setSt (s : State) (b : Byte) : State :=
  { s with st := b }

/-- The memory array replaced by another. -/
def State.setMem (s : State) (m : Memory) : State :=
  { s with mem := m }

/-- The video buffer replaced by another, and the output flag `draw` raised (41_display.md R92). -/
def State.setDrawn (s : State) (vid : Vector Bool 2048) : State :=
  { s with vid := vid, draw := true }

/-- Every pixel off, and the output flag `clear` raised (41_display.md R90). -/
def State.clearVideo (s : State) : State :=
  { s with vid := Vector.replicate 2048 false, clear := true }

/-- The skip of 3xkk, 4xkk, 5xy0, 9xy0, Ex9E and ExA1: PC, already past the instruction, moves on by 2
when the condition holds (40_cycle.md R87). -/
def State.skipIf (s : State) (condition : Bool) : State :=
  if condition then s.setPc (s.pc + 2) else s

/-! ## The stack controller (10_state.md R25 to R28) -/

/-- `Push(addr)` (R27). -/
def push (addr : Word) (s : State) : Except Fault State :=
  if h : s.sp.val < 16 then
    .ok { s with stack := s.stack.set s.sp.val addr h, sp := ⟨s.sp.val + 1, by omega⟩ }
  else .error .stackOverflow

/-- `Pop()`: the popped address and the state after it (R28). -/
def pop (s : State) : Except Fault (Word × State) :=
  if h : 0 < s.sp.val then
    .ok (s.stack[s.sp.val - 1]'(by omega), { s with sp := ⟨s.sp.val - 1, by omega⟩ })
  else .error .stackUnderflow

/-! ## Sprites (41_display.md R91, R92) -/

/-- `Place(x0, y0, r, c)`: the pixel of sprite row r and column c (R91). Both edge rules start from the
origin reduced modulo 64 and 32 and agree on the screen, so the parameter is read only for a pixel beyond
an edge; that this is R91's own text is a statement about the model. -/
def place (edge : DrawEdge) (x0 y0 : Byte) (r c : Nat) : Option Pixel :=
  if h : x0.toNat % 64 + c < 64 ∧ y0.toNat % 32 + r < 32 then
    some ⟨(y0.toNat % 32 + r) * 64 + (x0.toNat % 64 + c), by omega⟩
  else
    match edge with
    | .wrap => some ⟨(y0.toNat % 32 + r) % 32 * 64 + (x0.toNat % 64 + c) % 64, by omega⟩
    | .clip => none

/-- The pixels that the 1 bits of one sprite row reach; bit 7 is the leftmost column (R91, PRESUMED by
the spec's decision D12, log 9). -/
def rowPixels (edge : DrawEdge) (x0 y0 : Byte) (r : Nat) (b : Byte) : List Pixel :=
  (List.range 8).filterMap fun c => if b.getLsbD (7 - c) then place edge x0 y0 r c else none

/-- The pixels that the 1 bits of a sprite reach, row by row from row r (R92). -/
def spritePixels (edge : DrawEdge) (x0 y0 : Byte) : Nat → List Byte → List Pixel
  | _, [] => []
  | r, b :: bs => rowPixels edge x0 y0 r b ++ spritePixels edge x0 y0 (r + 1) bs

/-- "if Vid[p] == 1: collision <- 1" and "Vid[p] <- Vid[p] XOR 1" (R92). -/
def togglePixel (acc : Vector Bool 2048 × Bool) (p : Pixel) : Vector Bool 2048 × Bool :=
  (acc.1.set p.val (!acc.1[p.val]), acc.2 || acc.1[p.val])

/-- The video buffer after toggling each pixel of a list, and whether one of them was on (R92). -/
def togglePixels (vid : Vector Bool 2048) (ps : List Pixel) : Vector Bool 2048 × Bool :=
  ps.foldl togglePixel (vid, false)

/-- Dxyn for a given edge rule: the sprite's n bytes at I are XORed onto the video buffer at (V[x], V[y]),
`draw` is raised, and VF, written last, receives the collision (R92, 70_reset_and_hazards.md R210). The
bytes are read before any pixel changes: no pixel has a memory address (10_state.md R31) and the state
after a fault is unspecified (60_exceptions.md R178). -/
def drawSprite (edge : DrawEdge) (x y : Reg) (n : Nibble) (s : State) : Except Fault State :=
  match readBytes s.fontGlyphs s.mem s.i.toNat n.toNat with
  | .error e => .error e
  | .ok rows =>
    let drawn := togglePixels s.vid (spritePixels edge (s.getV x) (s.getV y) 0 rows)
    .ok ((s.setDrawn drawn.1).setV regF (flagByte drawn.2))

/-! ## Timers (60_exceptions.md R184, R185) -/

/-- One count down with a floor at 0 (R185). -/
def tickByte (b : Byte) : Byte :=
  if b = 0 then 0 else b - 1

/-- The effect of one `Tick` on a machine that is not Faulted (R185). -/
def State.tick (s : State) : State :=
  { s with dt := tickByte s.dt, st := tickByte s.st }

/-- Several counts down at once with a floor at 0. -/
def countDown (ticks : Nat) (b : Byte) : Byte :=
  if b = 0 then 0 else BitVec.ofNat 8 (b.toNat - ticks)

/-- The effect of several `Tick`s: `State.tick` that many times, by the lemma `tickTimes_eq_iterate`. -/
def State.tickTimes (s : State) (ticks : Nat) : State :=
  { s with dt := countDown ticks s.dt, st := countDown ticks s.st }

/-! ## Fault entry, and the only way out of it (60_exceptions.md R176 to R181) -/

/-- Fault entry: the latch is set to the fault with its information and is never overwritten (R177,
10_state.md R34). Every other piece of the block's state is unspecified afterwards (R178): each is a free
value of Config (log 2), memory in its canonical form. -/
def State.latchFault (s : State) (e : Fault) : State :=
  match s.faultLatch with
  | some _ => s
  | none =>
    { s with
      v := Vector.ofFn fun k => Config.afterFaultByte s.stepCount k.val
      i := Config.afterFaultWord s.stepCount 16
      pc := Config.afterFaultWord s.stepCount 17
      stack := Vector.ofFn fun k => Config.afterFaultWord s.stepCount k.val
      sp := Config.afterFaultDepth s.stepCount
      dt := Config.afterFaultByte s.stepCount 16
      st := Config.afterFaultByte s.stepCount 17
      vid := Vector.ofFn fun p => Config.afterFaultBit s.stepCount p.val
      mem :=
        Memory.ofBytes s.fontGlyphs (fun a => Config.afterFaultByte s.stepCount (18 + a)) 0 0x1000
      clear := Config.afterFaultBit s.stepCount 2048
      draw := Config.afterFaultBit s.stepCount 2049
      faultLatch := some e
      bootPhase := .running
      stepCount := s.stepCount + 1 }

/-- `Reset`: every piece of the block's state to its reset value, the latch cleared, with the FONT_GLYPHS the
machine has (log 30); "the only way out of the Faulted state" (00_scope.md R10, R181,
70_reset_and_hazards.md R200). The host's coming turns and the counter of the free values are no state of the
block and go on (log 6). -/
def State.resetAgain (s : State) : State :=
  { State.resetWith s.fontGlyphs with hostQueue := s.hostQueue, stepCount := s.stepCount }

/-! ## Loading a ROM (70_reset_and_hazards.md R205, R206) -/

/-- Where a ROM is loaded, which is also the reset PC (00_scope.md R5). -/
def romBase : Nat := 0x200

/-- The bytes of a ROM written from 0x200 upward (R205). -/
def Memory.writeAll (font : FontTable) : Memory → Nat → List Byte → Memory
  | m, _, [] => m
  | m, addr, b :: bs => Memory.writeAll font (m.write font addr b) (addr + 1) bs

/-- The state after a ROM that fits is loaded (R205). -/
def State.loadRom (s : State) (bytes : List Byte) : State :=
  { s with mem := s.mem.writeAll s.fontGlyphs romBase bytes, bootPhase := .romLoaded }

end Sys2Proof.Machine
end

