-- ==== Sys2Proof/Machine/Alu.lean ====
section
/-! DEFINITION. The register and ALU instructions (43_alu.md). Operands are read before any write
(00_scope.md R8); no instruction here can fault. -/

namespace Sys2Proof.Machine

/-- 6xkk (R120). -/
def execLdByte (x : Reg) (kk : Byte) (s : State) : Outcome :=
  .next (s.setV x kk)

/-- 7xkk: no flag (R121). -/
def execAddByte (x : Reg) (kk : Byte) (s : State) : Outcome :=
  .next (s.setV x (addResult (s.getV x) kk))

/-- 8xy0 (R122). -/
def execLdReg (x y : Reg) (s : State) : Outcome :=
  .next (s.setV x (s.getV y))

/-- 8xy1: VF is not written unless x = 0xF (R123, D32). -/
def execOrReg (x y : Reg) (s : State) : Outcome :=
  .next (s.setV x (s.getV x ||| s.getV y))

/-- 8xy2 (R124). -/
def execAndReg (x y : Reg) (s : State) : Outcome :=
  .next (s.setV x (s.getV x &&& s.getV y))

/-- 8xy3 (R125). -/
def execXorReg (x y : Reg) (s : State) : Outcome :=
  .next (s.setV x (s.getV x ^^^ s.getV y))

/-- 8xy4 (R126). -/
def execAddReg (x y : Reg) (s : State) : Outcome :=
  .next (s.setResultAndFlag x (addResult (s.getV x) (s.getV y)) (addCarry (s.getV x) (s.getV y)))

/-- 8xy5 (R127). -/
def execSubReg (x y : Reg) (s : State) : Outcome :=
  .next (s.setResultAndFlag x (subResult (s.getV x) (s.getV y)) (subNoBorrow (s.getV x) (s.getV y)))

/-- 8xy6: y is not read (R128). -/
def execShr (x : Reg) (s : State) : Outcome :=
  .next (s.setResultAndFlag x (shrResult (s.getV x)) (shrOut (s.getV x)))

/-- 8xy7 (R129). -/
def execSubnReg (x y : Reg) (s : State) : Outcome :=
  .next (s.setResultAndFlag x (subResult (s.getV y) (s.getV x)) (subNoBorrow (s.getV y) (s.getV x)))

/-- 8xyE: y is not read (R130). -/
def execShl (x : Reg) (s : State) : Outcome :=
  .next (s.setResultAndFlag x (shlResult (s.getV x)) (shlOut (s.getV x)))

/-- Cxkk: the step's random byte AND kk (R132). -/
def execRnd (x : Reg) (kk : Byte) (s : State) : Outcome :=
  .next (s.setV x (s.rndIn &&& kk))

end Sys2Proof.Machine
end

