-- ==== Sys2Proof/Machine/ControlFlow.lean ====
section
/-! DEFINITION. The control-flow instructions (42_control_flow.md). -/

namespace Sys2Proof.Machine

/-- 00EE: "target <- Pop(); pc <- target" (R100). -/
def execRet (s : State) : Outcome :=
  match pop s with
  | .ok (target, s') => .next (s'.setPc target)
  | .error e => .fault e

/-- 1nnn (R101). -/
def execJp (nnn : Addr) (s : State) : Outcome :=
  .next (s.setPc (zextAddr nnn))

/-- 2nnn: the pushed address is the PC after the fetch (R102). -/
def execCall (nnn : Addr) (s : State) : Outcome :=
  match push s.pc s with
  | .ok s' => .next (s'.setPc (zextAddr nnn))
  | .error e => .fault e

/-- 3xkk (R103). -/
def execSeByte (x : Reg) (kk : Byte) (s : State) : Outcome :=
  .next (s.skipIf (s.getV x == kk))

/-- 4xkk (R104). -/
def execSneByte (x : Reg) (kk : Byte) (s : State) : Outcome :=
  .next (s.skipIf (s.getV x != kk))

/-- 5xy0 (R105). -/
def execSeReg (x y : Reg) (s : State) : Outcome :=
  .next (s.skipIf (s.getV x == s.getV y))

/-- 9xy0 (R106). -/
def execSneReg (x y : Reg) (s : State) : Outcome :=
  .next (s.skipIf (s.getV x != s.getV y))

/-- Bnnn: nnn + V0, not reduced to 12 bits (R107). -/
def execJpV0 (nnn : Addr) (s : State) : Outcome :=
  .next (s.setPc (zextAddr nnn + zextByte (s.getV 0x0)))

end Sys2Proof.Machine
end

