-- ==== Sys2Proof/Machine/Display.lean ====
section
/-! DEFINITION. The display instructions (41_display.md). A meaning runs in the state after the fetch: its
`pc` is the fetch address plus 2 (40_cycle.md R81). -/

namespace Sys2Proof.Machine

/-- 00E0 (R90). -/
def execCls (s : State) : Outcome :=
  .next s.clearVideo

/-- Dxyn, with the edge rule the parameter DRAW_EDGE gives (R92, R91). -/
def execDrw (x y : Reg) (n : Nibble) (s : State) : Outcome :=
  outcomeOf (drawSprite Config.drawEdge x y n s)

end Sys2Proof.Machine
end

