-- ==== Sys2Proof/Machine/IndexMemory.lean ====
section
/-! DEFINITION. The index register and memory instructions (44_index_memory.md). No instruction here
changes I as a side effect of an access (R146, D15). -/

namespace Sys2Proof.Machine

/-- Annn (R140). -/
def execLdI (nnn : Addr) (s : State) : Outcome :=
  .next (s.setI (zextAddr nnn))

/-- Fx1E: modulo 2^16, no flag (R141, D6). -/
def execAddI (x : Reg) (s : State) : Outcome :=
  .next (s.setI (s.i + zextByte (s.getV x)))

/-- Fx29: font_base 0x000 + V[x] * 5, V[x] not masked (R142, D16). -/
def execLdFont (x : Reg) (s : State) : Outcome :=
  .next (s.setI (BitVec.ofNat 16 (0x000 + (s.getV x).toNat * 5)))

/-- Fx33 (R143). -/
def execLdBcd (x : Reg) (s : State) : Outcome :=
  match writeBytes s.fontGlyphs s.mem (s.effAddr 0) (bcdDigits (s.getV x)) with
  | .ok m => .next (s.setMem m)
  | .error e => .fault e

/-- Fx55 (R144). -/
def execStoreRegs (x : Reg) (s : State) : Outcome :=
  match writeBytes s.fontGlyphs s.mem (s.effAddr 0) (s.firstRegs x) with
  | .ok m => .next (s.setMem m)
  | .error e => .fault e

/-- Fx65 (R145). -/
def execLoadRegs (x : Reg) (s : State) : Outcome :=
  match readBytes s.fontGlyphs s.mem (s.effAddr 0) (x.toNat + 1) with
  | .ok bs => .next (s.setFirstRegs bs)
  | .error e => .fault e

end Sys2Proof.Machine
end

