-- ==== Sys2Proof/Machine/KeypadTimers.lean ====
section
/-! DEFINITION. The keypad and timer instructions (45_keypad_timers.md). -/

namespace Sys2Proof.Machine

/-- Ex9E (R160). -/
def execSkp (x : Reg) (s : State) : Outcome :=
  .next (s.skipIf (s.keyPressed (s.getV x)))

/-- ExA1 (R161). -/
def execSknp (x : Reg) (s : State) : Outcome :=
  .next (s.skipIf (!s.keyPressed (s.getV x)))

/-- Fx07 (R162). -/
def execLdRegDt (x : Reg) (s : State) : Outcome :=
  .next (s.setV x s.dt)

/-- Fx0A: with no key, PC goes back to the instruction itself; no release is awaited (R163, D26). -/
def execLdRegKey (x : Reg) (s : State) : Outcome :=
  .next (match s.keyIn with
    | none => s.setPc (s.pc - 2)
    | some k => s.setV x (keyByte k))

/-- Fx15 (R164). -/
def execLdDtReg (x : Reg) (s : State) : Outcome :=
  .next (s.setDt (s.getV x))

/-- Fx18 (R165). -/
def execLdStReg (x : Reg) (s : State) : Outcome :=
  .next (s.setSt (s.getV x))

end Sys2Proof.Machine
end

