-- ==== Sys2Proof/Decode.lean ====
section
/-! DEFINITION. The decoder (30_encoding.md R61 to R67) and, after it, the encoder, written from the same
map (R64). -/

namespace Sys2Proof

/-- The six overlapping fields of an instruction word (R61). -/
structure Fields where
  itype : Nibble
  x : Reg
  y : Reg
  n : Nibble
  kk : Byte
  nnn : Addr
  deriving DecidableEq, Repr

/-- Why bytes are no instruction. -/
inductive DecodeError where
  /-- Fewer bytes than the two of an instruction word (R60). -/
  | truncated
  /-- The word matches no row of the opcode map (R66). -/
  | unknownOpcode (rawWord : Word)
  deriving DecidableEq, Repr

/-- The field extraction, "pure, total, no failure path" (R61, R62). -/
def fields (w : Word) : Fields where
  itype := w.extractLsb' 12 4
  x := w.extractLsb' 8 4
  y := w.extractLsb' 4 4
  n := w.extractLsb' 0 4
  kk := w.extractLsb' 0 8
  nnn := w.extractLsb' 0 12

/-- The 0 family needs the whole word: x = 0 and the low byte (R65). -/
def selectFamily0 (f : Fields) : Option Instr :=
  if f.nnn = 0x0E0 then some .cls
  else if f.nnn = 0x0EE then some .ret
  else none

/-- The 8 family is selected by n alone (R65). -/
def selectFamily8 (f : Fields) : Option Instr :=
  match f.n with
  | 0x0#4 => some (.ldReg f.x f.y)
  | 0x1#4 => some (.orReg f.x f.y)
  | 0x2#4 => some (.andReg f.x f.y)
  | 0x3#4 => some (.xorReg f.x f.y)
  | 0x4#4 => some (.addReg f.x f.y)
  | 0x5#4 => some (.subReg f.x f.y)
  | 0x6#4 => some (.shr f.x f.y)
  | 0x7#4 => some (.subnReg f.x f.y)
  | 0xE#4 => some (.shl f.x f.y)
  | _ => none

/-- The E family is selected by kk alone (R65). -/
def selectFamilyE (f : Fields) : Option Instr :=
  if f.kk = 0x9E then some (.skp f.x)
  else if f.kk = 0xA1 then some (.sknp f.x)
  else none

/-- The F family is selected by kk alone (R65). -/
def selectFamilyF (f : Fields) : Option Instr :=
  match f.kk with
  | 0x07#8 => some (.ldRegDt f.x)
  | 0x0A#8 => some (.ldRegKey f.x)
  | 0x15#8 => some (.ldDtReg f.x)
  | 0x18#8 => some (.ldStReg f.x)
  | 0x1E#8 => some (.addI f.x)
  | 0x29#8 => some (.ldFont f.x)
  | 0x33#8 => some (.ldBcd f.x)
  | 0x55#8 => some (.storeRegs f.x)
  | 0x65#8 => some (.loadRegs f.x)
  | _ => none

/-- The dispatch on `itype`, and within a family on `kk` or `n` as needed (R64, R65). -/
def select (f : Fields) : Option Instr :=
  match f.itype with
  | 0x0#4 => selectFamily0 f
  | 0x1#4 => some (.jp f.nnn)
  | 0x2#4 => some (.call f.nnn)
  | 0x3#4 => some (.seByte f.x f.kk)
  | 0x4#4 => some (.sneByte f.x f.kk)
  | 0x5#4 => if f.n = 0x0 then some (.seReg f.x f.y) else none
  | 0x6#4 => some (.ldByte f.x f.kk)
  | 0x7#4 => some (.addByte f.x f.kk)
  | 0x8#4 => selectFamily8 f
  | 0x9#4 => if f.n = 0x0 then some (.sneReg f.x f.y) else none
  | 0xA#4 => some (.ldI f.nnn)
  | 0xB#4 => some (.jpV0 f.nnn)
  | 0xC#4 => some (.rnd f.x f.kk)
  | 0xD#4 => some (.drw f.x f.y f.n)
  | 0xE#4 => selectFamilyE f
  | 0xF#4 => selectFamilyF f
  | _ => none

/-- The instruction of a word, or the word itself as illegal (R64, R66). -/
def decodeWord (w : Word) : Except DecodeError Instr :=
  match select (fields w) with
  | some i => .ok i
  | none => .error (.unknownOpcode w)

/-- The word of two bytes, high byte first (20_memory.md R43). -/
def wordOfBytes (hi lo : Byte) : Word :=
  hi ++ lo

/-- The decoder on bytes: the instruction at their head and the bytes after it (R60). -/
def decodeBytes : List Byte → Except DecodeError (Instr × List Byte)
  | hi :: lo :: rest =>
    match decodeWord (wordOfBytes hi lo) with
    | .ok i => .ok (i, rest)
    | .error e => .error e
  | _ => .error .truncated

/-- A word of the four nibbles of its pattern, the most significant first (R6). -/
def ofNibbles (a b c d : Nibble) : Word :=
  a ++ b ++ c ++ d

/-- A word of a family, a register field and a low byte, the form `fxkk` (R61). -/
def ofByteForm (itype : Nibble) (x : Reg) (kk : Byte) : Word :=
  itype ++ x ++ kk

/-- A word of a family and an address, the form `fnnn` (R61). -/
def ofAddrForm (itype : Nibble) (nnn : Addr) : Word :=
  itype ++ nnn

/-- The encoder, from the patterns of R64. -/
def encode : Instr → Word
  | .cls => 0x00E0
  | .ret => 0x00EE
  | .jp nnn => ofAddrForm 0x1 nnn
  | .call nnn => ofAddrForm 0x2 nnn
  | .seByte x kk => ofByteForm 0x3 x kk
  | .sneByte x kk => ofByteForm 0x4 x kk
  | .seReg x y => ofNibbles 0x5 x y 0x0
  | .ldByte x kk => ofByteForm 0x6 x kk
  | .addByte x kk => ofByteForm 0x7 x kk
  | .ldReg x y => ofNibbles 0x8 x y 0x0
  | .orReg x y => ofNibbles 0x8 x y 0x1
  | .andReg x y => ofNibbles 0x8 x y 0x2
  | .xorReg x y => ofNibbles 0x8 x y 0x3
  | .addReg x y => ofNibbles 0x8 x y 0x4
  | .subReg x y => ofNibbles 0x8 x y 0x5
  | .shr x y => ofNibbles 0x8 x y 0x6
  | .subnReg x y => ofNibbles 0x8 x y 0x7
  | .shl x y => ofNibbles 0x8 x y 0xE
  | .sneReg x y => ofNibbles 0x9 x y 0x0
  | .ldI nnn => ofAddrForm 0xA nnn
  | .jpV0 nnn => ofAddrForm 0xB nnn
  | .rnd x kk => ofByteForm 0xC x kk
  | .drw x y n => ofNibbles 0xD x y n
  | .skp x => ofByteForm 0xE x 0x9E
  | .sknp x => ofByteForm 0xE x 0xA1
  | .ldRegDt x => ofByteForm 0xF x 0x07
  | .ldRegKey x => ofByteForm 0xF x 0x0A
  | .ldDtReg x => ofByteForm 0xF x 0x15
  | .ldStReg x => ofByteForm 0xF x 0x18
  | .addI x => ofByteForm 0xF x 0x1E
  | .ldFont x => ofByteForm 0xF x 0x29
  | .ldBcd x => ofByteForm 0xF x 0x33
  | .storeRegs x => ofByteForm 0xF x 0x55
  | .loadRegs x => ofByteForm 0xF x 0x65

/-- The high byte of a word, the one stored at the lower address (20_memory.md R43). -/
def highByte (w : Word) : Byte :=
  w.extractLsb' 8 8

/-- The low byte of a word (20_memory.md R43). -/
def lowByte (w : Word) : Byte :=
  w.extractLsb' 0 8

/-- The two bytes of an instruction as they stand in memory (R60, 20_memory.md R43). -/
def encodeBytes (i : Instr) : List Byte :=
  [highByte (encode i), lowByte (encode i)]

/-- The instruction word that the table's numbering `w` of `nbits` bits stands for: bit 0 is the word's
least significant bit and every bit above `nbits` is 0 (log 25). -/
def tableWord (nbits w : Nat) : Word :=
  BitVec.ofNat 16 (w % 2 ^ nbits)

/-- What the decoder reads from an instruction numbered as spec/opcode_table.json numbers it. -/
def decodeTableWord (nbits w : Nat) : Option Instr :=
  match decodeBytes [highByte (tableWord nbits w), lowByte (tableWord nbits w)] with
  | .ok (i, _) => some i
  | .error _ => none

end Sys2Proof
end

