-- ==== Sys2Proof/Machine/Fetch.lean ====
section
/-! DEFINITION. What a step does around its instruction (40_cycle.md): the host's inputs, the output
flags, the fetch and the advance of PC. -/

namespace Sys2Proof.Machine

/-- The host's next turn: the oldest of its queue, else free values of the step's number (log 3). -/
def State.nextTurn (s : State) : HostTurn :=
  match s.hostQueue with
  | turn :: _ => turn
  | [] =>
    { ticks := Config.ticksBeforeStep s.stepCount
      key := Config.freeKey s.stepCount
      rnd := Config.freeRandom s.stepCount }

/-- The host's queue without the turn that is taken. -/
def State.popTurn (s : State) : State :=
  { s with hostQueue := s.hostQueue.tail }

/-- The start of a step: the inputs are sampled, once, before the fetch (R86), and both output flags are
cleared (R85). The boot order's last phase begins (70_reset_and_hazards.md R206). -/
def State.beginStep (s : State) (key : Option Key) (rnd : Byte) : State :=
  { s with
    clear := false
    draw := false
    keyIn := key
    rndIn := rnd
    bootPhase := .running
    stepCount := s.stepCount + 1 }

/-- `FetchWord(addr)`: two bytes, high byte first; the first byte address that is out of range faults
(20_memory.md R43, R44). -/
def fetchWord (font : FontTable) (m : Memory) (addr : Nat) : Except Fault Word :=
  match memRead font m addr with
  | .error e => .error e
  | .ok hi =>
    match memRead font m (addr + 1) with
    | .error e => .error e
    | .ok lo => .ok (wordOfBytes hi lo)

/-- Fetch, advance of PC and decode: the instruction and the state it executes in, whose PC is the fetch
address plus 2, before the instruction is interpreted (40_cycle.md R80 to R83). A word that is no
instruction raises UnknownOpcode with the fetch address (60_exceptions.md R174). -/
def fetchDecode (s : State) : Except Fault (Instr × State) :=
  match fetchWord s.fontGlyphs s.mem s.pc.toNat with
  | .error e => .error e
  | .ok w =>
    match decodeWord w with
    | .ok i => .ok (i, s.setPc (s.pc + 2))
    | .error _ => .error (.unknownOpcode w s.pc)

/-- Where a word can be fetched: both its bytes exist (20_memory.md R44). -/
def fetchable (pc : Word) : Bool :=
  decide (pc.toNat + 1 < 0x1000)

/-- The state with an instruction word stored where the next fetch reads it. A PC that no fetch succeeds
at is moved to 0x200 first, and a latched fault, which would stop the step, is cleared (log 23). -/
def State.placeWord (s : State) (w : Word) : State :=
  let pc : Word := if fetchable s.pc then s.pc else 0x0200
  { s with
    pc := pc
    mem := (s.mem.write s.fontGlyphs pc.toNat (highByte w)).write s.fontGlyphs (pc.toNat + 1) (lowByte w)
    faultLatch := none }

end Sys2Proof.Machine
end

