-- ==== Sys2Proof/Machine/Step.lean ====
section
/-! DEFINITION. One `Step` transaction (40_cycle.md R80), and the machine's step, which takes the inputs
from the host's next turn. -/

namespace Sys2Proof.Machine

/-- `Step(key, rnd)`: refused with the latched fault if there is one (R84), else the inputs are sampled
and the output flags cleared (R85, R86), the word is fetched and decoded with PC advanced (R81, R82), and
the instruction is executed (R83). It does not tick the timers (R88). -/
def stepTransaction (key : Option Key) (rnd : Byte) (s : State) : Host.Outcome State Fault Refusal :=
  match s.faultLatch with
  | some e => .fault e
  | none =>
    match fetchDecode (s.beginStep key rnd) with
    | .error e => .fault e
    | .ok (i, s') => exec i s'

/-- One turn of the host's driving loop: the `Tick`s due before the step, then the `Step` with the turn's
inputs (00_scope.md R9, R12, 60_exceptions.md R186, log 4). -/
def step (s : State) : Host.Outcome State Fault Refusal :=
  stepTransaction s.nextTurn.key s.nextTurn.rnd (s.popTurn.tickTimes s.nextTurn.ticks)

/-- The state whose very next step fetches and runs the word `w` (log 23). -/
def State.withFetchWord (s : State) (nbits w : Nat) : State :=
  s.placeWord (tableWord nbits w)

end Sys2Proof.Machine
end

