-- ==== Sys2Proof/Machine/Transactions.lean ====
section
/-! DEFINITION. The five transactions of the block's interface (00_scope.md R9 to R16), each with what it
returns. `step` (Step.lean) is the host's loop over two of them. -/

namespace Sys2Proof.Machine

/-- What the host can ask of the block (00_scope.md R10 to R15). -/
inductive Transaction where
  /-- R10. -/
  | reset
  /-- R11. -/
  | loadRom (bytes : List Byte)
  /-- R12. -/
  | step (key : Option Key) (rnd : Byte)
  /-- R14. -/
  | tick
  /-- R15. -/
  | readVideo
  deriving DecidableEq, Repr

/-- What a transaction returns. -/
inductive Reply where
  /-- A `Reset`, a `LoadRom` or a `Tick` that was done. -/
  | ok
  /-- `Ok(flags)` of a completed `Step` (R12, 10_state.md R33). -/
  | okFlags (clear draw : Bool)
  /-- The pixels of `ReadVideo` (R15). -/
  | video (pixels : Vector Bool 2048)
  /-- A fault: that of the step, the latched one (40_cycle.md R84), or RomTooLarge (60_exceptions.md
  R175). -/
  | error (e : Fault)
  /-- Not admitted (70_reset_and_hazards.md R206). -/
  | refused (r : Refusal)
  deriving DecidableEq, Repr

/-- `Step(key, rnd)` with the fault latch: a step that raises a fault sets the latch and returns the fault
(60_exceptions.md R177); a step of a Faulted machine changes nothing and returns the latched fault
(40_cycle.md R84). -/
def serveStep (key : Option Key) (rnd : Byte) (s : State) : State × Reply :=
  match stepTransaction key rnd s with
  | .next s' => (s', .okFlags s'.clear s'.draw)
  | .fault e => (s.latchFault e, .error e)
  | .refused r => (s, .refused r)

/-- `Tick`: refused with the latched fault if there is one (60_exceptions.md R185, 40_cycle.md R84). -/
def serveTick (s : State) : State × Reply :=
  match s.faultLatch with
  | some e => (s, .error e)
  | none => (s.tick, .ok)

/-- `LoadRom(bytes)`: once, between `Reset` and the first `Step` (70_reset_and_hazards.md R203, R206,
log 22); an over-long ROM returns RomTooLarge and writes nothing (R205). -/
def serveLoadRom (bytes : List Byte) (s : State) : State × Reply :=
  if s.bootPhase = .awaitingRom then
    if wellFormedRom bytes then (s.loadRom bytes, .ok) else (s, .error (.romTooLarge bytes.length))
  else (s, .refused .loadRomNotAdmitted)

/-- One transaction: the state after it and what it returns. -/
def transact (t : Transaction) (s : State) : State × Reply :=
  match t with
  | .reset => (s.resetAgain, .ok)
  | .loadRom bytes => serveLoadRom bytes s
  | .step key rnd => serveStep key rnd s
  | .tick => serveTick s
  | .readVideo => (s, .video s.vid)

/-- Transactions served one after another, as the host serialises them (00_scope.md R9): the state after
the last. -/
def transactAll : List Transaction → State → State
  | [], s => s
  | t :: ts, s => transactAll ts (transact t s).1

/-- The transactions of one turn of the host's loop: its ticks, then its step. -/
def HostTurn.transactions (turn : HostTurn) : List Transaction :=
  List.replicate turn.ticks .tick ++ [.step turn.key turn.rnd]

end Sys2Proof.Machine
end

