-- ==== Sys2Proof/Safety.lean ====
section
/-! DEFINITION. The terms that claims about the machine use: its invariant, the runs it can make, what an
instruction leaves unchanged, and the shapes of the instructions' results. -/

namespace Sys2Proof.Machine

/-! ## The invariant and runs -/

/-- What every state between steps meets: memory in canonical form, and the bounds of 10_state.md R24: a
PC of at most 0x10FE and stack entries of at most 0x1000. -/
structure State.Inv (s : State) : Prop where
  memory : s.mem.wf s.fontGlyphs = true
  pcBound : s.pc.toNat ≤ 0x10FE
  stackBound : ∀ (j : Nat) (h : j < 16), (s.stack[j]).toNat ≤ 0x1000

/-- The states that `step` reaches from a state. -/
inductive Reachable (s₀ : State) : State → Prop where
  | start : Reachable s₀ s₀
  | next {s t : State} : Reachable s₀ s → step s = .next t → Reachable s₀ t

/-- A run of k steps that meets no fault and no refusal: what counts as a safe run. -/
def SafeFor (k : Nat) (s : State) : Prop :=
  ∃ t, Sys2Proof.core.run k s = .next t

/-- The conventional end of a program: the word at PC is a jump to its own address (42_control_flow.md
R101, D31). -/
def State.AtSelfLoop (s : State) : Prop :=
  ∃ nnn, zextAddr nnn = s.pc ∧ fetchWord s.fontGlyphs s.mem s.pc.toNat = .ok (encode (.jp nnn))

/-! ## Frames -/

/-- Every byte of memory reads as before. -/
def SameMemory (s t : State) : Prop :=
  ∀ a : Nat, t.byteAt a = s.byteAt a

/-- Every general register but those of a set is as before. -/
def SameRegsExcept (changed : Reg → Prop) (s t : State) : Prop :=
  ∀ r : Reg, ¬ changed r → t.getV r = s.getV r

/-- Every general register is as before. -/
def SameRegs (s t : State) : Prop :=
  ∀ r : Reg, t.getV r = s.getV r

/-- The stack and its depth are as before. -/
def SameStack (s t : State) : Prop :=
  t.stack = s.stack ∧ t.sp = s.sp

/-- Both timers are as before. -/
def SameTimers (s t : State) : Prop :=
  t.dt = s.dt ∧ t.st = s.st

/-- Every pixel and both output flags are as before. -/
def SameDisplay (s t : State) : Prop :=
  (∀ p : Pixel, t.vid[p.val] = s.vid[p.val]) ∧ t.clear = s.clear ∧ t.draw = s.draw

/-- The fault latch, the boot phase, FONT_GLYPHS and the model's own fields are as before. -/
def SameControl (s t : State) : Prop :=
  t.faultLatch = s.faultLatch ∧ t.bootPhase = s.bootPhase ∧ t.fontGlyphs = s.fontGlyphs ∧
    t.keyIn = s.keyIn ∧ t.rndIn = s.rndIn ∧ t.hostQueue = s.hostQueue ∧ t.stepCount = s.stepCount

/-- Everything but the general registers and PC is as before. -/
def SameBesidesRegs (s t : State) : Prop :=
  t.i = s.i ∧ SameStack s t ∧ SameTimers s t ∧ SameDisplay s t ∧ SameControl s t ∧ SameMemory s t

/-! ## Shapes of results -/

/-- The outcome is a next state in which V[x] holds a byte and nothing else has changed (PC stays the one
of the fetch). -/
def WritesReg (s : State) (x : Reg) (b : Byte) (o : Outcome) : Prop :=
  ∃ t, o = .next t ∧ (∀ r : Reg, t.getV r = if r = x then b else s.getV r) ∧ t.pc = s.pc ∧
    SameBesidesRegs s t

/-- The outcome is a next state in which VF holds a flag, V[x] a byte if it is not VF, and nothing else
has changed. -/
def WritesRegThenFlag (s : State) (x : Reg) (b : Byte) (flag : Prop) (o : Outcome) : Prop :=
  ∃ t, o = .next t ∧ ((flag ∧ t.getV regF = 1) ∨ (¬ flag ∧ t.getV regF = 0)) ∧
    (∀ r : Reg, r ≠ regF → t.getV r = if r = x then b else s.getV r) ∧ t.pc = s.pc ∧
    SameBesidesRegs s t

/-- The outcome is a next state in which PC holds an address and nothing else has changed. -/
def SetsPc (s : State) (target : Word) (o : Outcome) : Prop :=
  ∃ t, o = .next t ∧ t.pc = target ∧ SameRegs s t ∧ SameBesidesRegs s t

/-- The outcome is a next state in which I holds an address and nothing else has changed. -/
def SetsI (s : State) (a : Word) (o : Outcome) : Prop :=
  ∃ t, o = .next t ∧ t.i = a ∧ t.pc = s.pc ∧ SameRegs s t ∧ SameStack s t ∧ SameTimers s t ∧
    SameDisplay s t ∧ SameControl s t ∧ SameMemory s t

/-- The outcome is a next state in which the two timers hold two bytes and nothing else has changed. -/
def SetsTimers (s : State) (dt st : Byte) (o : Outcome) : Prop :=
  ∃ t, o = .next t ∧ t.dt = dt ∧ t.st = st ∧ t.i = s.i ∧ t.pc = s.pc ∧ SameRegs s t ∧ SameStack s t ∧
    SameDisplay s t ∧ SameControl s t ∧ SameMemory s t

/-- The outcome is a next state in which the bytes of a list stand in memory from an address on, every
other byte reads as before, and nothing else has changed. -/
def StoresBytes (s : State) (base : Nat) (bs : List Byte) (o : Outcome) : Prop :=
  ∃ t, o = .next t ∧ (∀ k : Nat, (h : k < bs.length) → t.byteAt (base + k) = bs[k]) ∧
    (∀ a : Nat, (a < base ∨ base + bs.length ≤ a) → t.byteAt a = s.byteAt a) ∧
    t.i = s.i ∧ t.pc = s.pc ∧ SameRegs s t ∧ SameStack s t ∧ SameTimers s t ∧ SameDisplay s t ∧
    SameControl s t

/-! ## Sprites and writers, in the spec's own words -/

/-- `Place(x0, y0, r, c)` as 41_display.md R91 writes it, on integers. -/
def specPlace (edge : DrawEdge) (x0 y0 r c : Nat) : Option Nat :=
  match edge with
  | .wrap => some ((y0 + r) % 32 * 64 + (x0 + c) % 64)
  | .clip =>
    if x0 % 64 + c ≥ 64 ∨ y0 % 32 + r ≥ 32 then none
    else some ((y0 % 32 + r) * 64 + (x0 % 64 + c))

/-- Some 1 bit of the n-row sprite at I, drawn at (V[x], V[y]), lands on the pixel (R91, R92). -/
def SpriteReaches (edge : DrawEdge) (s : State) (x y : Reg) (n : Nibble) (p : Pixel) : Prop :=
  ∃ r c : Nat, r < n.toNat ∧ c < 8 ∧ (s.byteAt (s.effAddr r)).getLsbD (7 - c) = true ∧
    specPlace edge (s.getV x).toNat (s.getV y).toNat r c = some p.val

/-- The registers an instruction may write, from 10_state.md R20: its destination, VF for the flag
writers, V0 to V[x] for Fx65. -/
def writesReg (i : Instr) (r : Reg) : Prop :=
  match i with
  | .ldByte x _ | .addByte x _ | .ldReg x _ | .orReg x _ | .andReg x _ | .xorReg x _ => r = x
  | .rnd x _ | .ldRegDt x | .ldRegKey x => r = x
  | .addReg x _ | .subReg x _ | .shr x _ | .subnReg x _ | .shl x _ => r = x ∨ r = regF
  | .drw _ _ _ => r = regF
  | .loadRegs x => r ≤ x
  | .cls | .ret | .jp _ | .call _ | .jpV0 _ => False
  | .seByte _ _ | .sneByte _ _ | .seReg _ _ | .sneReg _ _ | .skp _ | .sknp _ => False
  | .ldI _ | .addI _ | .ldFont _ | .ldBcd _ | .storeRegs _ | .ldDtReg _ | .ldStReg _ => False

/-- The fault of an access of `count` bytes from `base` on, `count` not 0 and not all of them in memory:
the first byte address out of range (20_memory.md R51, 60_exceptions.md R179). -/
def FaultsAtFirstByte (base count : Nat) (o : Outcome) : Prop :=
  ∃ k : Nat, k < count ∧ base + k ≥ 0x1000 ∧ (∀ j : Nat, j < k → base + j < 0x1000) ∧
    o = .fault (.outOfBounds (base + k))

end Sys2Proof.Machine
end

