-- ==== Sys2Proof/Certificates/Slice0/Obligations.lean ====
section
/-! DEFINITION. The statements about the model, for the provers. Each formalises rules of spec/, which its
docstring names; a clause that rests on a decision the spec marks as its own (D<n> of
92_eei_decisions.md) or on a choice of the model (log <n>) says so. -/

open Sys2Proof Sys2Proof.Machine

/-! ## Encoding -/

/-- A word of each of the sixteen families, written out from the
patterns of 30_encoding.md R64, decodes to its instruction. -/
def Obligations.WordsOfTheMapDecode : Prop :=
  decodeWord 0b0000000011100000 = .ok .cls ∧
  decodeWord 0b0000000011101110 = .ok .ret ∧
  decodeWord 0b0001001100000000 = .ok (.jp 0x300) ∧
  decodeWord 0b0010001000010000 = .ok (.call 0x210) ∧
  decodeWord 0b0011001101000010 = .ok (.seByte 3 0x42) ∧
  decodeWord 0b0100101001011011 = .ok (.sneByte 0xA 0x5B) ∧
  decodeWord 0b0101000100100000 = .ok (.seReg 1 2) ∧
  decodeWord 0b0110000000000101 = .ok (.ldByte 0 0x05) ∧
  decodeWord 0b0111000000000011 = .ok (.addByte 0 0x03) ∧
  decodeWord 0b1000111111100100 = .ok (.addReg 0xF 0xE) ∧
  decodeWord 0b1000000000011110 = .ok (.shl 0 1) ∧
  decodeWord 0b1001000100100000 = .ok (.sneReg 1 2) ∧
  decodeWord 0b1010001100000000 = .ok (.ldI 0x300) ∧
  decodeWord 0b1011101010111100 = .ok (.jpV0 0xABC) ∧
  decodeWord 0b1100001100001111 = .ok (.rnd 3 0x0F) ∧
  decodeWord 0b1101001000110101 = .ok (.drw 2 3 5) ∧
  decodeWord 0b1110000110011110 = .ok (.skp 1) ∧
  decodeWord 0b1111001001100101 = .ok (.loadRegs 2)

/-- Decoding the encoding of any instruction gives it back, with every operand at every value its field
holds (R61, R64). -/
def Obligations.DecodeOfEncodeIsTheInstruction : Prop :=
  ∀ i : Instr, decodeWord (encode i) = .ok i ∧ decodeBytes (encodeBytes i) = .ok (i, [])

/-- Encoding what a word decodes to gives the word back: no bit of a legal word is dropped (R61, R64). -/
def Obligations.EncodeOfDecodeIsTheWord : Prop :=
  ∀ (w : Word) (i : Instr), decodeWord w = .ok i → encode i = w

/-- The field dispatch of the decoder is the opcode map of R64: a word decodes to an instruction exactly
when a row selects it, the instruction is that row's, and no other row selects it. -/
def Obligations.DecoderIsTheOpcodeMap : Prop :=
  opcodeRows.length = 34 ∧
  ∀ w : Word,
    (∀ row ∈ opcodeRows, w &&& row.mask = row.pattern →
      (∃ i, decodeWord w = .ok i ∧ i.mnemonic = row.mnemonic) ∧
        ∀ row' ∈ opcodeRows, w &&& row'.mask = row'.pattern → row' = row) ∧
    (∀ i, decodeWord w = .ok i →
      ∃ row ∈ opcodeRows, row.mnemonic = i.mnemonic ∧
        ∀ row' ∈ opcodeRows, (w &&& row'.mask = row'.pattern ↔ row' = row)) ∧
    ((∀ row ∈ opcodeRows, w &&& row.mask ≠ row.pattern) → decodeWord w = .error (.unknownOpcode w))

/-- The illegal words are exactly the six spaces of R66 (that the literal digits are required is the
spec's decision D10). -/
def Obligations.IllegalWordsAreTheSixSpaces : Prop :=
  ∀ w : Word, decodeWord w = .error (.unknownOpcode w) ↔
    (w.toNat < 0x1000 ∧ w.toNat ≠ 0x00E0 ∧ w.toNat ≠ 0x00EE) ∨
    (w.toNat / 0x1000 = 0x5 ∧ w.toNat % 0x10 ≠ 0) ∨
    (w.toNat / 0x1000 = 0x8 ∧ w.toNat % 0x10 ∈ [0x8, 0x9, 0xA, 0xB, 0xC, 0xD, 0xF]) ∨
    (w.toNat / 0x1000 = 0x9 ∧ w.toNat % 0x10 ≠ 0) ∨
    (w.toNat / 0x1000 = 0xE ∧ w.toNat % 0x100 ∉ [0x9E, 0xA1]) ∨
    (w.toNat / 0x1000 = 0xF ∧
      w.toNat % 0x100 ∉ [0x07, 0x0A, 0x15, 0x18, 0x1E, 0x29, 0x33, 0x55, 0x65])

/-- The six fields of a word and how they overlap, with the source's worked example (R61). -/
def Obligations.FieldsOfAWord : Prop :=
  (∀ w : Word,
    (fields w).itype.toNat = w.toNat / 0x1000 ∧ (fields w).x.toNat = w.toNat / 0x100 % 0x10 ∧
    (fields w).y.toNat = w.toNat / 0x10 % 0x10 ∧ (fields w).n.toNat = w.toNat % 0x10 ∧
    (fields w).kk.toNat = w.toNat % 0x100 ∧ (fields w).nnn.toNat = w.toNat % 0x1000 ∧
    (fields w).kk = (fields w).y ++ (fields w).n ∧ (fields w).nnn = (fields w).x ++ (fields w).kk) ∧
  fields 0x1234 = { itype := 1, x := 2, y := 3, n := 4, kk := 0x34, nnn := 0x234 }

/-! ## The step -/

/-- The five parts of a `Step` transaction in their order: refusal if Faulted, output flags cleared and
inputs sampled, fetch with PC advanced by 2, decode, execute (40_cycle.md R80 to R86; the spec's decisions D9,
D17, D19 and D21). The end of the boot order (`bootPhase`, read from R206, log 22) and the counter of steps
(log 3) are the model's own. -/
def Obligations.StepTransactionFollowsTheCycle : Prop :=
  ∀ (key : Option Key) (rnd : Byte) (s : State),
    (∀ e, s.faultLatch = some e → stepTransaction key rnd s = .fault e) ∧
    (∀ e, s.faultLatch = none → fetchWord s.fontGlyphs s.mem s.pc.toNat = .error e →
      stepTransaction key rnd s = .fault e) ∧
    (∀ w, s.faultLatch = none → fetchWord s.fontGlyphs s.mem s.pc.toNat = .ok w →
      decodeWord w = .error (.unknownOpcode w) →
      stepTransaction key rnd s = .fault (.unknownOpcode w s.pc)) ∧
    (∀ w i, s.faultLatch = none → fetchWord s.fontGlyphs s.mem s.pc.toNat = .ok w →
      decodeWord w = .ok i →
      stepTransaction key rnd s =
        exec i { s with
          pc := s.pc + 2, clear := false, draw := false, keyIn := key, rndIn := rnd,
          bootPhase := .running, stepCount := s.stepCount + 1 })

/-- The machine's step runs the decoded instruction: where the two bytes at PC decode to an instruction,
the step is `exec` of it, after the ticks of the host's turn (the model's choice, log 4), in the state whose
PC is past the word, whose output flags are cleared and whose inputs are the turn's (R80 to R86; the spec's
decisions D19 and D21). The end of the boot order (`bootPhase`, read from R206, log 22), the host's queue and
the counter of steps (log 3) are the model's own. -/
def Obligations.StepRunsTheDecodedInstruction : Prop :=
  ∀ (s : State) (i : Instr), s.faultLatch = none → s.pc.toNat + 1 < 0x1000 →
    decodeBytes [s.byteAt s.pc.toNat, s.byteAt (s.pc.toNat + 1)] = .ok (i, []) →
    step s = exec i
      { s.tickTimes s.nextTurn.ticks with
        pc := s.pc + 2, clear := false, draw := false, keyIn := s.nextTurn.key,
        rndIn := s.nextTurn.rnd, bootPhase := .running, hostQueue := s.hostQueue.tail,
        stepCount := s.stepCount + 1 }

/-- A fetch reads two bytes, high byte first, from any PC of at most 0x0FFE, odd ones included, and faults
at any other PC with the first byte address out of range (20_memory.md R43, R44, R45; the address reported
is the spec's decision D8). -/
def Obligations.FetchIsBigEndianAndBoundsChecked : Prop :=
  ∀ s : State,
    (s.pc.toNat ≤ 0x0FFE → ∃ w : Word, fetchWord s.fontGlyphs s.mem s.pc.toNat = .ok w ∧
      w.toNat = (s.byteAt s.pc.toNat).toNat * 256 + (s.byteAt (s.pc.toNat + 1)).toNat) ∧
    (s.pc.toNat = 0x0FFF → s.faultLatch = none → step s = .fault (.outOfBounds 0x1000)) ∧
    (s.pc.toNat ≥ 0x1000 → s.faultLatch = none → step s = .fault (.outOfBounds s.pc.toNat))

/-- An illegal word at PC faults with the word and the address it was fetched from, whatever the inputs
(60_exceptions.md R174; the address is the spec's decision D9). -/
def Obligations.IllegalWordFaultsWithItsAddress : Prop :=
  ∀ (s : State) (w : Word), s.faultLatch = none → fetchWord s.fontGlyphs s.mem s.pc.toNat = .ok w →
    (∀ row ∈ opcodeRows, w &&& row.mask ≠ row.pattern) →
    step s = .fault (.unknownOpcode w s.pc)

/-- PC at the end of a completed `Step`, for every instruction, with f the fetch address (R87, which the
spec derives from the instruction rules). -/
def Obligations.PcAfterEachInstruction : Prop :=
  ∀ (key : Option Key) (rnd : Byte) (s t : State) (i : Instr),
    fetchWord s.fontGlyphs s.mem s.pc.toNat = .ok (encode i) → stepTransaction key rnd s = .next t →
    let skipped (c : Prop) : Prop :=
      (c ∧ t.pc.toNat = s.pc.toNat + 4) ∨ (¬ c ∧ t.pc.toNat = s.pc.toNat + 2)
    match i with
    | .jp nnn | .call nnn => t.pc.toNat = nnn.toNat
    | .jpV0 nnn => t.pc.toNat = nnn.toNat + (s.getV 0).toNat
    | .ret => ∃ j : Nat, ∃ h : j < 16, s.sp.val = j + 1 ∧ t.pc = s.stack[j]
    | .seByte x kk => skipped (s.getV x = kk)
    | .sneByte x kk => skipped (s.getV x ≠ kk)
    | .seReg x y => skipped (s.getV x = s.getV y)
    | .sneReg x y => skipped (s.getV x ≠ s.getV y)
    | .skp x => skipped (∃ k, key = some k ∧ k.toNat = (s.getV x).toNat)
    | .sknp x => skipped (¬ ∃ k, key = some k ∧ k.toNat = (s.getV x).toNat)
    | .ldRegKey _ => (key = none ∧ t.pc = s.pc) ∨ (key ≠ none ∧ t.pc.toNat = s.pc.toNat + 2)
    | _ => t.pc.toNat = s.pc.toNat + 2

/-- The output flags after a step are those its own instruction raised: `clear` for 00E0 and `draw` for
Dxyn, and no other (R85, 10_state.md R33; the spec's decision D21). -/
def Obligations.OutputFlagsAreTheStepsOwn : Prop :=
  ∀ (s t : State), step s = .next t →
    ∃ i, fetchWord s.fontGlyphs s.mem s.pc.toNat = .ok (encode i) ∧
      (t.clear = true ↔ i = .cls) ∧ (t.draw = true ↔ ∃ x y n, i = .drw x y n)

/-- A completed step leaves no fault latched, ends the boot order, takes one turn from the host's queue and
counts one step (10_state.md R34, 70_reset_and_hazards.md R206; the boot phase is the model's reading of R206,
log 22, and the queue and the counter are its own, log 3). -/
def Obligations.CompletedStepLeavesNoFault : Prop :=
  ∀ (s t : State), step s = .next t →
    s.faultLatch = none ∧ t.faultLatch = none ∧ t.bootPhase = .running ∧
      t.hostQueue = s.hostQueue.tail ∧ t.stepCount = s.stepCount + 1

/-- The key is read only by Ex9E, ExA1 and Fx0A and the random byte only by Cxkk (R86); no instruction
reads ST (10_state.md R30): another instruction, run with another value there, does the same. -/
def Obligations.InputsReadOnlyByTheirInstructions : Prop :=
  ∀ (i : Instr) (s t : State), exec i s = .next t →
    (∀ key : Option Key, (∀ x, i ≠ .skp x ∧ i ≠ .sknp x ∧ i ≠ .ldRegKey x) →
      exec i { s with keyIn := key } = .next { t with keyIn := key }) ∧
    (∀ rnd : Byte, (∀ x kk, i ≠ .rnd x kk) →
      exec i { s with rndIn := rnd } = .next { t with rndIn := rnd }) ∧
    (∀ st : Byte, (∀ x, i ≠ .ldStReg x) → exec i { s with st := st } = .next { t with st := st })

/-! ## Reset, loading, ticks, faults: the other transactions -/

/-- What `Reset` leaves that the source fixes: PC at 0x200, an empty stack, and the font table in place
(70_reset_and_hazards.md R201, 10_state.md R23, R26), for every value of the parameter FONT_GLYPHS, which
`Reset` keeps (00_scope.md R5; that the state holds it is the model's choice, log 30). The state right after
reset takes the default that the spec presumes (20_memory.md R47, log 7). -/
def Obligations.ResetLeavesTheSourcesValues : Prop :=
  (∀ s : State, (transact .reset s).2 = .ok ∧
    (transact .reset s).1.fontGlyphs = s.fontGlyphs) ∧
  (∀ font : FontTable, (State.resetWith font).fontGlyphs = font) ∧
  State.reset = State.resetWith Config.defaultFontGlyphs ∧
  ∀ r : State, ((∃ s, r = (transact .reset s).1) ∨ ∃ font, r = State.resetWith font) →
    r.pc = 0x0200 ∧ r.sp.val = 0 ∧ ∀ (a : Nat) (h : a < 80), r.byteAt a = r.fontGlyphs[a]

/-- What `Reset` leaves by the spec's decision D3 and R200: zeros everywhere else, both output flags and
the fault latch cleared, whatever the state before, a Faulted one included, and whatever FONT_GLYPHS. The
state right after reset is such a state. That a ROM is awaited (`bootPhase`) is the model's own field, read
from R203 and R206 (log 22). -/
def Obligations.ResetLeavesZerosElsewhere : Prop :=
  ∀ r : State, ((∃ s, r = (transact .reset s).1) ∨ ∃ font, r = State.resetWith font) →
    (∀ x : Reg, r.getV x = 0) ∧ r.i = 0 ∧ r.dt = 0 ∧ r.st = 0 ∧
    (∀ (j : Nat) (h : j < 16), r.stack[j] = 0) ∧ (∀ p : Pixel, r.vid[p.val] = false) ∧
    (∀ a : Nat, 80 ≤ a → a < 0x1000 → r.byteAt a = 0) ∧
    r.clear = false ∧ r.draw = false ∧ r.faultLatch = none ∧ r.bootPhase = .awaitingRom

/-- `LoadRom` before the first step: a ROM that fits stands at 0x200 and nothing else changes; an over-long
one is rejected with its length and nothing is written (70_reset_and_hazards.md R205; that the length is
checked is the spec's decision D18; the boot phase is the model's reading of R203 and R206, log 22). -/
def Obligations.LoadRomCopiesOrRejects : Prop :=
  ∀ (s : State) (bytes : List Byte), s.mem.wf s.fontGlyphs = true → s.bootPhase = .awaitingRom →
    (bytes.length ≤ 0xE00 → ∃ t, transact (.loadRom bytes) s = (t, .ok) ∧
      (∀ (k : Nat) (h : k < bytes.length), t.byteAt (0x200 + k) = bytes[k]) ∧
      (∀ a : Nat, (a < 0x200 ∨ 0x200 + bytes.length ≤ a) → t.byteAt a = s.byteAt a) ∧
      t = { s with mem := t.mem, bootPhase := .romLoaded }) ∧
    (bytes.length > 0xE00 → transact (.loadRom bytes) s = (s, .error (.romTooLarge bytes.length)))

/-- After a `Step` no `LoadRom` is admitted until `Reset`, however many transactions come between (R206; the
spec's decision D18). How the refusal is answered is the model's (log 22). -/
def Obligations.NoRomAfterTheFirstStep : Prop :=
  ∀ (ts : List Transaction) (key : Option Key) (rnd : Byte) (s u : State) (bytes : List Byte),
    s.faultLatch = none → Transaction.reset ∉ ts →
    u = transactAll (.step key rnd :: ts) s →
    transact (.loadRom bytes) u = (u, .refused .loadRomNotAdmitted) ∧
      (transact (.loadRom bytes) (transact .reset u).1).2 ≠ .refused .loadRomNotAdmitted

/-- `Tick`: both timers count down by exactly 1 with a floor at 0, nothing else changes, and a Faulted
machine refuses it (60_exceptions.md R185, 40_cycle.md R84; the refusal with the latched fault is the spec's
decision D17). -/
def Obligations.TickCountsDownToZero : Prop :=
  ∀ s : State,
    (s.faultLatch = none → ∃ t, transact .tick s = (t, .ok) ∧ t.dt.toNat = s.dt.toNat - 1 ∧
      t.st.toNat = s.st.toNat - 1 ∧ t = { s with dt := t.dt, st := t.st }) ∧
    (∀ e, s.faultLatch = some e → transact .tick s = (s, .error e))

/-- A step that raises a fault sets the latch to it and returns it; from then on `Step` and `Tick` change
nothing and return that fault (60_exceptions.md R177, 40_cycle.md R84, the spec's decision D17). -/
def Obligations.FaultIsLatchedAndReturned : Prop :=
  ∀ (key : Option Key) (rnd : Byte) (s : State) (e : Fault), s.faultLatch = none →
    stepTransaction key rnd s = .fault e →
    ∃ t, transact (.step key rnd) s = (t, .error e) ∧ t.faultLatch = some e ∧ step t = .fault e ∧
      (∀ key' rnd', transact (.step key' rnd') t = (t, .error e)) ∧ transact .tick t = (t, .error e)

/-- Only `Reset` leaves the Faulted state: no other sequence of transactions clears the latch or changes
the fault in it (60_exceptions.md R181). -/
def Obligations.OnlyResetLeavesFaulted : Prop :=
  ∀ (ts : List Transaction) (s : State) (e : Fault), s.faultLatch = some e →
    (Transaction.reset ∉ ts → (transactAll ts s).faultLatch = some e) ∧
    (transact .reset (transactAll ts s)).1.faultLatch = none

/-- The machine's step is what the host's transactions do: serving the turn's ticks and then its step gives
the state of a completed step, and latches the fault of one that faults (00_scope.md R9, 60_exceptions.md
R186; the turn is the model's own, log 4). -/
def Obligations.StepIsTheTurnsTransactions : Prop :=
  ∀ s : State,
    (∀ t, step s = .next t → transactAll s.nextTurn.transactions s.popTurn = t) ∧
    (∀ e, step s = .fault e → (transactAll s.nextTurn.transactions s.popTurn).faultLatch = some e) ∧
    (∀ r, step s ≠ .refused r)

/-- Which faults an instruction raises, and when: StackOverflow by 2nnn on a full stack, StackUnderflow by
00EE on an empty one (60_exceptions.md R172, R173), OutOfBounds by Dxyn, Fx33, Fx55 and Fx65 at an address of
at least 0x1000, and nothing else; no instruction is refused. -/
def Obligations.FaultsAreThoseOfTheTaxonomy : Prop :=
  ∀ (i : Instr) (s : State),
    (∀ r, exec i s ≠ .refused r) ∧
    (exec i s = .fault .stackOverflow ↔ (∃ nnn, i = .call nnn) ∧ s.sp.val = 16) ∧
    (exec i s = .fault .stackUnderflow ↔ i = .ret ∧ s.sp.val = 0) ∧
    (∀ e, exec i s = .fault e → e ≠ .stackOverflow → e ≠ .stackUnderflow →
      (∃ a, e = .outOfBounds a ∧ a ≥ 0x1000) ∧
      ((∃ x y n, i = .drw x y n) ∨ (∃ x, i = .ldBcd x ∨ i = .storeRegs x ∨ i = .loadRegs x)))

/-- An access that leaves memory faults with the first byte address out of range, never truncated or
wrapped (20_memory.md R51, the spec's decision D7; 60_exceptions.md R171, R179). -/
def Obligations.DataAccessFaultsAtItsFirstByte : Prop :=
  ∀ (x y : Reg) (n : Nibble) (s : State),
    (n.toNat ≠ 0 → s.i.toNat + n.toNat > 0x1000 →
      FaultsAtFirstByte s.i.toNat n.toNat (exec (.drw x y n) s)) ∧
    (s.i.toNat + 3 > 0x1000 → FaultsAtFirstByte s.i.toNat 3 (exec (.ldBcd x) s)) ∧
    (s.i.toNat + x.toNat + 1 > 0x1000 →
      FaultsAtFirstByte s.i.toNat (x.toNat + 1) (exec (.storeRegs x) s)) ∧
    (s.i.toNat + x.toNat + 1 > 0x1000 →
      FaultsAtFirstByte s.i.toNat (x.toNat + 1) (exec (.loadRegs x) s))

/-! ## Invariants and whole-machine frames -/

/-- The state right after reset meets the invariant, with every FONT_GLYPHS, and so does the state after the
transaction `Reset` (10_state.md R24; the canonical form of memory is the model's, log 24). -/
def Obligations.ResetMeetsTheInvariant : Prop :=
  State.reset.Inv ∧ (∀ font : FontTable, (State.resetWith font).Inv) ∧
    ∀ s : State, (transact .reset s).1.Inv

/-- Every step keeps the invariant: memory stays in canonical form, PC never exceeds 0x10FE and no stack
entry exceeds 0x1000 (10_state.md R24, which the spec derives; the canonical form is the model's, log 24). -/
def Obligations.StepKeepsTheInvariant : Prop :=
  ∀ s t : State, s.Inv → step s = .next t → t.Inv

/-- So every state a run reaches from one that meets the invariant meets it: PC at most 0x10FE and stack
entries at most 0x1000 (R24), and memory in canonical form, which is the model's own (log 24). -/
def Obligations.ReachableStatesMeetTheInvariant : Prop :=
  ∀ s t : State, s.Inv → Reachable s t → t.Inv

/-- Every transaction, a faulting step included, keeps memory in canonical form (log 24). -/
def Obligations.TransactionsKeepMemoryCanonical : Prop :=
  ∀ (ts : List Transaction) (s : State), s.mem.wf s.fontGlyphs = true →
    (transactAll ts s).mem.wf (transactAll ts s).fontGlyphs = true

/-- FONT_GLYPHS is a parameter: no step and no sequence of transactions, a `Reset` or a fault included,
changes it (00_scope.md R5; that the state holds it is the model's choice, log 30). -/
def Obligations.FontGlyphsIsFixed : Prop :=
  ∀ s : State, (∀ t, step s = .next t → t.fontGlyphs = s.fontGlyphs) ∧
    ∀ ts : List Transaction, (transactAll ts s).fontGlyphs = s.fontGlyphs

/-- No register but those 10_state.md R20 lists for an instruction is written: the destination, VF by the
flag writers, V0 to V[x] by Fx65. So VF is written by no other instruction except as its explicit
destination (R21). -/
def Obligations.OnlyListedRegistersAreWritten : Prop :=
  ∀ (i : Instr) (s t : State) (r : Reg), exec i s = .next t → ¬ writesReg i r → t.getV r = s.getV r

/-- I is written by Annn, Fx1E and Fx29 only (10_state.md R22), the stack by 2nnn only and its depth by 2nnn
and 00EE only (R25, R26), DT by Fx15 only and ST by Fx18 only (R29, R30), the fault latch by none (R34), nor
the model's own fields (the boot phase, log 22, the inputs, queue and counter, log 3, FONT_GLYPHS, log 30). -/
def Obligations.SpecialRegistersHaveTheirWriters : Prop :=
  ∀ (i : Instr) (s t : State), exec i s = .next t →
    (t.i ≠ s.i → (∃ nnn, i = .ldI nnn) ∨ ∃ x, i = .addI x ∨ i = .ldFont x) ∧
    (t.stack ≠ s.stack → ∃ nnn, i = .call nnn) ∧
    (t.sp ≠ s.sp → i = .ret ∨ ∃ nnn, i = .call nnn) ∧
    (t.dt ≠ s.dt → ∃ x, i = .ldDtReg x) ∧ (t.st ≠ s.st → ∃ x, i = .ldStReg x) ∧ SameControl s t

/-- The video buffer is changed by Dxyn and 00E0 only, memory by Fx33 and Fx55 only (10_state.md R31,
20_memory.md R49). -/
def Obligations.VideoAndMemoryHaveTheirWriters : Prop :=
  ∀ (i : Instr) (s t : State), exec i s = .next t →
    ((∀ x y n, i ≠ .drw x y n) → i ≠ .cls → SameDisplay s t) ∧
    ((∀ x, i ≠ .ldBcd x ∧ i ≠ .storeRegs x) → SameMemory s t)

/-! ## Display -/

/-- 00E0: every pixel off, `clear` raised, nothing else changed (41_display.md R90; that `draw` is not
raised is the spec's decision D21). -/
def Obligations.ClearTurnsEveryPixelOff : Prop :=
  ∀ s : State, decodeWord 0x00E0 = .ok .cls ∧
    ∃ t, exec .cls s = .next t ∧ (∀ p : Pixel, t.vid[p.val] = false) ∧ t.clear = true ∧
      t.draw = s.draw ∧ t.pc = s.pc ∧ t.i = s.i ∧ SameRegs s t ∧ SameStack s t ∧ SameTimers s t ∧
      SameControl s t ∧ SameMemory s t

/-- Dxyn: exactly the pixels that the sprite's 1 bits reach by R91's own Place, for the edge rule the
parameter names, are turned over; VF is 1 if one of them was on and else 0; `draw` is raised; nothing else
changes (R91, R92; the spec's decisions D11 to D14 and D21). The operands may be VF: they are read first. -/
def Obligations.DrawTogglesTheSpritesPixels : Prop :=
  ∀ (x y : Reg) (n : Nibble) (s : State), (n.toNat = 0 ∨ s.i.toNat + n.toNat ≤ 0x1000) →
    decodeWord (0xD#4 ++ x ++ y ++ n) = .ok (.drw x y n) ∧
    ∃ t, exec (.drw x y n) s = .next t ∧
      (∀ p : Pixel, t.vid[p.val] = s.vid[p.val] ↔ ¬ SpriteReaches Config.drawEdge s x y n p) ∧
      (((∃ p : Pixel, SpriteReaches Config.drawEdge s x y n p ∧ s.vid[p.val] = true) ∧
          t.getV regF = 1) ∨
        ((∀ p : Pixel, SpriteReaches Config.drawEdge s x y n p → s.vid[p.val] = false) ∧
          t.getV regF = 0)) ∧
      t.draw = true ∧ t.clear = s.clear ∧ t.pc = s.pc ∧ t.i = s.i ∧
      SameRegsExcept (fun r => r = regF) s t ∧ SameStack s t ∧ SameTimers s t ∧ SameControl s t ∧
      SameMemory s t

/-- A sprite wholly on the screen is placed the same way under both edge rules, at column V[x] + c and row
V[y] + r (R91; the spec's decision D11). -/
def Obligations.OnScreenSpritesIgnoreTheEdgeRule : Prop :=
  ∀ (edge : DrawEdge) (x0 y0 : Byte) (n r c : Nat), x0.toNat + 7 ≤ 63 → y0.toNat + n ≤ 32 →
    r < n → c < 8 →
    ∃ p : Pixel, place edge x0 y0 r c = some p ∧
      p.val = (y0.toNat + r) * 64 + (x0.toNat + c)

/-- Drawing the same sprite twice at the same place restores the buffer (R92). The second draw reports 1
exactly when the sprite reaches a pixel that was off before the first: on a dark screen, whenever it reaches
any (log 26). -/
def Obligations.DrawingTwiceRestoresTheBuffer : Prop :=
  ∀ (x y : Reg) (n : Nibble) (s t u : State), x ≠ regF → y ≠ regF →
    exec (.drw x y n) s = .next t → exec (.drw x y n) t = .next u →
    (∀ p : Pixel, u.vid[p.val] = s.vid[p.val]) ∧
    (u.getV regF = 1 ↔
      ∃ p : Pixel, SpriteReaches Config.drawEdge s x y n p ∧ s.vid[p.val] = false) ∧
    (u.getV regF = 1 ∨ u.getV regF = 0)

/-! ## Control flow -/

/-- 00EE pops the top of the stack into PC; on the empty stack it faults (42_control_flow.md R100,
10_state.md R28). -/
def Obligations.ReturnPopsIntoPc : Prop :=
  ∀ s : State, decodeWord 0x00EE = .ok .ret ∧
    (s.sp.val = 0 → exec .ret s = .fault .stackUnderflow) ∧
    (∀ (j : Nat) (h : j < 16), s.sp.val = j + 1 →
      ∃ t, exec .ret s = .next t ∧ t.pc = s.stack[j] ∧ t.sp.val = j ∧ t.stack = s.stack ∧
        t.i = s.i ∧ SameRegs s t ∧ SameTimers s t ∧ SameDisplay s t ∧ SameControl s t ∧
        SameMemory s t)

/-- 1nnn sets PC to nnn exactly, odd targets included (R101). -/
def Obligations.JumpSetsPc : Prop :=
  ∀ (nnn : Addr) (s : State), decodeWord (0x1#4 ++ nnn) = .ok (.jp nnn) ∧
    SetsPc s (BitVec.ofNat 16 nnn.toNat) (exec (.jp nnn) s)

/-- 2nnn pushes the incremented PC and jumps; on the full stack it faults (R102, 10_state.md R27). -/
def Obligations.CallPushesTheReturnAddress : Prop :=
  ∀ (nnn : Addr) (s : State), decodeWord (0x2#4 ++ nnn) = .ok (.call nnn) ∧
    (s.sp.val = 16 → exec (.call nnn) s = .fault .stackOverflow) ∧
    (s.sp.val < 16 → ∃ t, exec (.call nnn) s = .next t ∧ t.pc.toNat = nnn.toNat ∧
      t.sp.val = s.sp.val + 1 ∧
      (∀ (j : Nat) (h : j < 16), t.stack[j] = if j = s.sp.val then s.pc else s.stack[j]) ∧
      t.i = s.i ∧ SameRegs s t ∧ SameTimers s t ∧ SameDisplay s t ∧ SameControl s t ∧ SameMemory s t)

/-- A return undoes a call: after 2nnn, 00EE from anywhere with that stack resumes at the instruction after
the call, with the stack as deep as before (R100, R102). -/
def Obligations.ReturnResumesAfterTheCall : Prop :=
  ∀ (nnn : Addr) (s t t' : State), exec (.call nnn) s = .next t → t'.stack = t.stack → t'.sp = t.sp →
    ∃ u, exec .ret t' = .next u ∧ u.pc = s.pc ∧ u.sp = s.sp ∧
      ∀ (j : Nat) (h : j < 16), j ≠ s.sp.val → u.stack[j] = s.stack[j]

/-- Bnnn sets PC to nnn + V0, not reduced to 12 bits, always with register 0 (R107; the spec's decision D5). -/
def Obligations.JumpPlusV0SetsPc : Prop :=
  ∀ (nnn : Addr) (s : State), decodeWord (0xB#4 ++ nnn) = .ok (.jpV0 nnn) ∧
    SetsPc s (BitVec.ofNat 16 (nnn.toNat + (s.getV 0).toNat)) (exec (.jpV0 nnn) s) ∧
    nnn.toNat + (s.getV 0).toNat ≤ 0x10FE

/-- 3xkk and 4xkk skip, by exactly 2 more, when V[x] is, or is not, kk (R103, R104). -/
def Obligations.ByteSkipsCompareWithKk : Prop :=
  ∀ (x : Reg) (kk : Byte) (s : State),
    decodeWord (0x3#4 ++ x ++ kk) = .ok (.seByte x kk) ∧
    decodeWord (0x4#4 ++ x ++ kk) = .ok (.sneByte x kk) ∧
    (s.getV x = kk →
      SetsPc s (s.pc + 2) (exec (.seByte x kk) s) ∧ SetsPc s s.pc (exec (.sneByte x kk) s)) ∧
    (s.getV x ≠ kk →
      SetsPc s s.pc (exec (.seByte x kk) s) ∧ SetsPc s (s.pc + 2) (exec (.sneByte x kk) s))

/-- 5xy0 and 9xy0 skip, by exactly 2 more, when V[x] is, or is not, V[y] (R105, R106). -/
def Obligations.RegisterSkipsCompareTwoRegisters : Prop :=
  ∀ (x y : Reg) (s : State),
    decodeWord (0x5#4 ++ x ++ y ++ 0x0#4) = .ok (.seReg x y) ∧
    decodeWord (0x9#4 ++ x ++ y ++ 0x0#4) = .ok (.sneReg x y) ∧
    (s.getV x = s.getV y →
      SetsPc s (s.pc + 2) (exec (.seReg x y) s) ∧ SetsPc s s.pc (exec (.sneReg x y) s)) ∧
    (s.getV x ≠ s.getV y →
      SetsPc s s.pc (exec (.seReg x y) s) ∧ SetsPc s (s.pc + 2) (exec (.sneReg x y) s))

/-! ## Registers and ALU -/

/-- 6xkk loads kk and 8xy0 copies V[y], with no flag; x may be VF (43_alu.md R120, R122). -/
def Obligations.LoadsWriteOnlyVx : Prop :=
  ∀ (x y : Reg) (kk : Byte) (s : State),
    decodeWord (0x6#4 ++ x ++ kk) = .ok (.ldByte x kk) ∧ WritesReg s x kk (exec (.ldByte x kk) s) ∧
    decodeWord (0x8#4 ++ x ++ y ++ 0x0#4) = .ok (.ldReg x y) ∧
    WritesReg s x (s.getV y) (exec (.ldReg x y) s)

/-- 7xkk adds modulo 256 with no flag; with x = 0xF the wrapped sum goes to VF (R121). -/
def Obligations.AddImmediateWritesNoFlag : Prop :=
  ∀ (x : Reg) (kk : Byte) (s : State), decodeWord (0x7#4 ++ x ++ kk) = .ok (.addByte x kk) ∧
    WritesReg s x (BitVec.ofNat 8 (((s.getV x).toNat + kk.toNat) % 256)) (exec (.addByte x kk) s)

/-- 8xy1, 8xy2 and 8xy3 are the bitwise operations, bit by bit, and write no flag (R123 to R125; the spec's
decision D32). -/
def Obligations.LogicWritesNoFlag : Prop :=
  ∀ (x y : Reg) (s : State),
    decodeWord (0x8#4 ++ x ++ y ++ 0x1#4) = .ok (.orReg x y) ∧
    decodeWord (0x8#4 ++ x ++ y ++ 0x2#4) = .ok (.andReg x y) ∧
    decodeWord (0x8#4 ++ x ++ y ++ 0x3#4) = .ok (.xorReg x y) ∧
    (∃ b, WritesReg s x b (exec (.orReg x y) s) ∧
      ∀ k : Nat, b.getLsbD k = ((s.getV x).getLsbD k || (s.getV y).getLsbD k)) ∧
    (∃ b, WritesReg s x b (exec (.andReg x y) s) ∧
      ∀ k : Nat, b.getLsbD k = ((s.getV x).getLsbD k && (s.getV y).getLsbD k)) ∧
    (∃ b, WritesReg s x b (exec (.xorReg x y) s) ∧
      ∀ k : Nat, b.getLsbD k = ((s.getV x).getLsbD k != (s.getV y).getLsbD k))

/-- 8xy4: the sum modulo 256 to V[x], then the carry, "sum > 255", to VF; with x = 0xF VF ends holding the
carry (R126, 70_reset_and_hazards.md R210). -/
def Obligations.AddSetsCarry : Prop :=
  ∀ (x y : Reg) (s : State), decodeWord (0x8#4 ++ x ++ y ++ 0x4#4) = .ok (.addReg x y) ∧
    WritesRegThenFlag s x (BitVec.ofNat 8 (((s.getV x).toNat + (s.getV y).toNat) % 256))
      ((s.getV x).toNat + (s.getV y).toNat > 255) (exec (.addReg x y) s)

/-- 8xy5 and 8xy7: the difference modulo 256, then the strict comparison of the operands to VF, 0 when they
are equal (R127, R129). -/
def Obligations.SubtractionsSetStrictNoBorrow : Prop :=
  ∀ (x y : Reg) (s : State),
    decodeWord (0x8#4 ++ x ++ y ++ 0x5#4) = .ok (.subReg x y) ∧
    WritesRegThenFlag s x (BitVec.ofNat 8 ((256 + (s.getV x).toNat - (s.getV y).toNat) % 256))
      ((s.getV x).toNat > (s.getV y).toNat) (exec (.subReg x y) s) ∧
    decodeWord (0x8#4 ++ x ++ y ++ 0x7#4) = .ok (.subnReg x y) ∧
    WritesRegThenFlag s x (BitVec.ofNat 8 ((256 + (s.getV y).toNat - (s.getV x).toNat) % 256))
      ((s.getV y).toNat > (s.getV x).toNat) (exec (.subnReg x y) s)

/-- 8xy6 and 8xyE: V[x] shifted by one whatever y is, then the bit shifted out to VF (R128, R130). -/
def Obligations.ShiftsPutTheLostBitInVf : Prop :=
  ∀ (x y : Reg) (s : State),
    decodeWord (0x8#4 ++ x ++ y ++ 0x6#4) = .ok (.shr x y) ∧
    WritesRegThenFlag s x (BitVec.ofNat 8 ((s.getV x).toNat / 2)) ((s.getV x).toNat % 2 = 1)
      (exec (.shr x y) s) ∧
    decodeWord (0x8#4 ++ x ++ y ++ 0xE#4) = .ok (.shl x y) ∧
    WritesRegThenFlag s x (BitVec.ofNat 8 ((s.getV x).toNat * 2 % 256)) ((s.getV x).toNat ≥ 128)
      (exec (.shl x y) s)

/-- Cxkk: the step's random byte AND kk; a bit of the result is 0 where kk's is and else the random byte's,
for every value of that byte (R132, D20; where the byte comes from is the model's own, log 3). -/
def Obligations.RandomIsMaskedByKk : Prop :=
  ∀ (x : Reg) (kk : Byte) (s : State), decodeWord (0xC#4 ++ x ++ kk) = .ok (.rnd x kk) ∧
    ∃ b, WritesReg s x b (exec (.rnd x kk) s) ∧
      ∀ k : Nat, b.getLsbD k = (s.rndIn.getLsbD k && kk.getLsbD k)

/-! ## Index register and memory -/

/-- Annn loads I with nnn (44_index_memory.md R140). -/
def Obligations.LoadIndexSetsI : Prop :=
  ∀ (nnn : Addr) (s : State), decodeWord (0xA#4 ++ nnn) = .ok (.ldI nnn) ∧
    SetsI s (BitVec.ofNat 16 nnn.toNat) (exec (.ldI nnn) s)

/-- Fx1E adds V[x] to I modulo 2^16 with no flag, and Fx29 sets I to V[x] * 5, V[x] not masked (R141, R142;
the spec's decisions D6 and D16). -/
def Obligations.IndexArithmetic : Prop :=
  ∀ (x : Reg) (s : State),
    decodeWord (0xF#4 ++ x ++ 0x1E#8) = .ok (.addI x) ∧
    SetsI s (BitVec.ofNat 16 ((s.i.toNat + (s.getV x).toNat) % 65536)) (exec (.addI x) s) ∧
    decodeWord (0xF#4 ++ x ++ 0x29#8) = .ok (.ldFont x) ∧
    SetsI s (BitVec.ofNat 16 ((s.getV x).toNat * 5)) (exec (.ldFont x) s)

/-- Fx33 stores the hundreds, tens and ones of V[x] at I, I + 1 and I + 2 and changes nothing else; where
they do not fit in memory it faults at the first byte that does not (R143). -/
def Obligations.BcdStoresThreeDigits : Prop :=
  ∀ (x : Reg) (s : State), s.mem.wf s.fontGlyphs = true →
    decodeWord (0xF#4 ++ x ++ 0x33#8) = .ok (.ldBcd x) ∧
    (s.effAddr 2 < 0x1000 →
      StoresBytes s (s.effAddr 0)
        [BitVec.ofNat 8 ((s.getV x).toNat / 100), BitVec.ofNat 8 ((s.getV x).toNat / 10 % 10),
          BitVec.ofNat 8 ((s.getV x).toNat % 10)] (exec (.ldBcd x) s)) ∧
    (s.effAddr 2 ≥ 0x1000 → FaultsAtFirstByte (s.effAddr 0) 3 (exec (.ldBcd x) s))

/-- Fx55 stores V0 to V[x], VF included when x = 0xF, at I and upward and changes nothing else (R144; that I
is unchanged is the spec's decision D15). -/
def Obligations.StoreRegistersFillsMemory : Prop :=
  ∀ (x : Reg) (s : State), s.mem.wf s.fontGlyphs = true → s.effAddr x.toNat < 0x1000 →
    decodeWord (0xF#4 ++ x ++ 0x55#8) = .ok (.storeRegs x) ∧
    StoresBytes s (s.effAddr 0)
      ((List.range (x.toNat + 1)).map fun k => s.getV (BitVec.ofNat 4 k)) (exec (.storeRegs x) s)

/-- Fx65 loads V0 to V[x] from I and upward and changes nothing else (R145; that I is unchanged is the spec's
decision D15). -/
def Obligations.LoadRegistersReadsMemory : Prop :=
  ∀ (x : Reg) (s : State), s.effAddr x.toNat < 0x1000 →
    decodeWord (0xF#4 ++ x ++ 0x65#8) = .ok (.loadRegs x) ∧
    ∃ t, exec (.loadRegs x) s = .next t ∧
      (∀ r : Reg, t.getV r = if r.toNat ≤ x.toNat then s.byteAt (s.effAddr r.toNat) else s.getV r) ∧
      t.pc = s.pc ∧ SameBesidesRegs s t

/-- A store by Fx55 is seen by the very next fetch of the bytes it wrote (20_memory.md R55). -/
def Obligations.StoredInstructionIsFetched : Prop :=
  ∀ (x : Reg) (s t : State) (k : Nat), s.mem.wf s.fontGlyphs = true → exec (.storeRegs x) s = .next t →
    k + 1 ≤ x.toNat →
    ∃ w : Word, fetchWord t.fontGlyphs t.mem (s.effAddr k) = .ok w ∧
      w.toNat = (s.getV (BitVec.ofNat 4 k)).toNat * 256 + (s.getV (BitVec.ofNat 4 (k + 1))).toNat

/-! ## Keypad and timers -/

/-- Ex9E skips when the step's key is V[x], ExA1 when it is not; a V[x] of 0x10 or more is no key
(45_keypad_timers.md R160, R161). -/
def Obligations.KeySkipsCompareWithTheKey : Prop :=
  ∀ (x : Reg) (s : State),
    decodeWord (0xE#4 ++ x ++ 0x9E#8) = .ok (.skp x) ∧
    decodeWord (0xE#4 ++ x ++ 0xA1#8) = .ok (.sknp x) ∧
    ((∃ k : Key, s.keyIn = some k ∧ k.toNat = (s.getV x).toNat) →
      SetsPc s (s.pc + 2) (exec (.skp x) s) ∧ SetsPc s s.pc (exec (.sknp x) s)) ∧
    ((∀ k : Key, s.keyIn = some k → k.toNat ≠ (s.getV x).toNat) →
      SetsPc s s.pc (exec (.skp x) s) ∧ SetsPc s (s.pc + 2) (exec (.sknp x) s))

/-- Fx0A stores the step's key in V[x]; with no key it stores nothing and takes PC back by 2, to itself
(R163; that no release is awaited is the spec's decision D26). -/
def Obligations.KeyWaitTakesTheKeyOrRewinds : Prop :=
  ∀ (x : Reg) (s : State), decodeWord (0xF#4 ++ x ++ 0x0A#8) = .ok (.ldRegKey x) ∧
    (∀ k : Key, s.keyIn = some k →
      WritesReg s x (BitVec.ofNat 8 k.toNat) (exec (.ldRegKey x) s)) ∧
    (s.keyIn = none → SetsPc s (s.pc - 2) (exec (.ldRegKey x) s))

/-- Fx07 reads DT into V[x]; Fx15 sets DT and Fx18 sets ST from V[x], each leaving the other timer alone
(R162, R164, R165). -/
def Obligations.TimerTransfers : Prop :=
  ∀ (x : Reg) (s : State),
    decodeWord (0xF#4 ++ x ++ 0x07#8) = .ok (.ldRegDt x) ∧
    WritesReg s x s.dt (exec (.ldRegDt x) s) ∧
    decodeWord (0xF#4 ++ x ++ 0x15#8) = .ok (.ldDtReg x) ∧
    SetsTimers s (s.getV x) s.st (exec (.ldDtReg x) s) ∧
    decodeWord (0xF#4 ++ x ++ 0x18#8) = .ok (.ldStReg x) ∧
    SetsTimers s s.dt (s.getV x) (exec (.ldStReg x) s)

/-- Fx07 after Fx15 reads the value written less the `Tick` transactions between them, with a floor at 0
(70_reset_and_hazards.md R214, which the spec derives). -/
def Obligations.TimerReadsBackLessTheTicks : Prop :=
  ∀ (x y : Reg) (n : Nat) (s t : State), s.faultLatch = none → exec (.ldDtReg x) s = .next t →
    ∃ u, exec (.ldRegDt y) (transactAll (List.replicate n .tick) t) = .next u ∧
      (u.getV y).toNat = (s.getV x).toNat - n
end

