-- ==== Sys2Proof/Laws/Decode.lean ====
section
/-! SUPPORT. The fields of an encoded word and the two bytes of a word (30_encoding.md R61, 20_memory.md
R43). -/

namespace Sys2Proof

theorem fields_ofNibbles (a b c d : Nibble) :
    fields (ofNibbles a b c d) =
      { itype := a, x := b, y := c, n := d, kk := c ++ d, nnn := b ++ c ++ d } := by
  simp only [fields, ofNibbles, Fields.mk.injEq]
  refine ⟨?_, ?_, ?_, ?_, ?_, ?_⟩ <;> apply BitVec.eq_of_getLsbD_eq <;> intro i hi <;>
    simp only [BitVec.getLsbD_append, BitVec.getLsbD_extractLsb'] <;> interval_cases i <;> simp

theorem fields_ofByteForm (f : Nibble) (x : Reg) (kk : Byte) :
    fields (ofByteForm f x kk) =
      { itype := f, x := x, y := kk.extractLsb' 4 4, n := kk.extractLsb' 0 4, kk := kk,
        nnn := x ++ kk } := by
  simp only [fields, ofByteForm, Fields.mk.injEq]
  refine ⟨?_, ?_, ?_, ?_, ?_, ?_⟩ <;> apply BitVec.eq_of_getLsbD_eq <;> intro i hi <;>
    simp only [BitVec.getLsbD_append, BitVec.getLsbD_extractLsb'] <;> interval_cases i <;> simp

theorem fields_ofAddrForm (f : Nibble) (nnn : Addr) :
    fields (ofAddrForm f nnn) =
      { itype := f, x := nnn.extractLsb' 8 4, y := nnn.extractLsb' 4 4, n := nnn.extractLsb' 0 4,
        kk := nnn.extractLsb' 0 8, nnn := nnn } := by
  simp only [fields, ofAddrForm, Fields.mk.injEq]
  refine ⟨?_, ?_, ?_, ?_, ?_, ?_⟩ <;> apply BitVec.eq_of_getLsbD_eq <;> intro i hi <;>
    simp only [BitVec.getLsbD_append, BitVec.getLsbD_extractLsb'] <;> interval_cases i <;> simp

/-- A word is its four nibbles (R61). -/
theorem ofNibbles_fields (w : Word) :
    ofNibbles (fields w).itype (fields w).x (fields w).y (fields w).n = w := by
  simp only [fields, ofNibbles]
  apply BitVec.eq_of_getLsbD_eq
  intro i hi
  simp only [BitVec.getLsbD_append, BitVec.getLsbD_extractLsb']
  interval_cases i <;> simp

/-- A word is its family, x and kk (R61). -/
theorem ofByteForm_fields (w : Word) : ofByteForm (fields w).itype (fields w).x (fields w).kk = w := by
  simp only [fields, ofByteForm]
  apply BitVec.eq_of_getLsbD_eq
  intro i hi
  simp only [BitVec.getLsbD_append, BitVec.getLsbD_extractLsb']
  interval_cases i <;> simp

/-- A word is its family and nnn (R61). -/
theorem ofAddrForm_fields (w : Word) : ofAddrForm (fields w).itype (fields w).nnn = w := by
  simp only [fields, ofAddrForm]
  apply BitVec.eq_of_getLsbD_eq
  intro i hi
  simp only [BitVec.getLsbD_append, BitVec.getLsbD_extractLsb']
  interval_cases i <;> simp

/-- A word is its two bytes, high byte first (20_memory.md R43). -/
@[simp] theorem wordOfBytes_high_low (w : Word) : wordOfBytes (highByte w) (lowByte w) = w := by
  simp only [wordOfBytes, highByte, lowByte]
  apply BitVec.eq_of_getLsbD_eq
  intro i hi
  simp only [BitVec.getLsbD_append, BitVec.getLsbD_extractLsb']
  interval_cases i <;> simp

theorem decodeWord_ok_iff (w : Word) (i : Instr) : decodeWord w = .ok i ↔ select (fields w) = some i := by
  unfold decodeWord
  cases select (fields w) <;> simp

theorem decodeWord_error_iff (w : Word) (e : DecodeError) :
    decodeWord w = .error e ↔ select (fields w) = none ∧ e = .unknownOpcode w := by
  unfold decodeWord
  cases select (fields w) <;> simp [eq_comm]

/-- The decoder on the two bytes of a word is the decoder on the word (R60). -/
theorem decodeBytes_word (w : Word) (rest : List Byte) :
    decodeBytes (highByte w :: lowByte w :: rest) = (decodeWord w).map fun i => (i, rest) := by
  rw [decodeBytes, wordOfBytes_high_low]
  cases decodeWord w <;> rfl

end Sys2Proof
end

