-- ==== Sys2Proof/Laws/State.lean ====
section
/-! SUPPORT. What each named update of the state does to each field: one lemma for each field of each
update, true by unfolding, so that no later proof unfolds a record update. -/

namespace Sys2Proof.Machine

/-! ## State.setV -/

@[simp] theorem State.setV_v (s : State) (x : Reg) (b : Byte) : (s.setV x b).v = s.v.set x.toNat b := rfl
@[simp] theorem State.setV_i (s : State) (x : Reg) (b : Byte) : (s.setV x b).i = s.i := rfl
@[simp] theorem State.setV_pc (s : State) (x : Reg) (b : Byte) : (s.setV x b).pc = s.pc := rfl
@[simp] theorem State.setV_stack (s : State) (x : Reg) (b : Byte) : (s.setV x b).stack = s.stack := rfl
@[simp] theorem State.setV_sp (s : State) (x : Reg) (b : Byte) : (s.setV x b).sp = s.sp := rfl
@[simp] theorem State.setV_dt (s : State) (x : Reg) (b : Byte) : (s.setV x b).dt = s.dt := rfl
@[simp] theorem State.setV_st (s : State) (x : Reg) (b : Byte) : (s.setV x b).st = s.st := rfl
@[simp] theorem State.setV_vid (s : State) (x : Reg) (b : Byte) : (s.setV x b).vid = s.vid := rfl
@[simp] theorem State.setV_mem (s : State) (x : Reg) (b : Byte) : (s.setV x b).mem = s.mem := rfl
@[simp] theorem State.setV_clear (s : State) (x : Reg) (b : Byte) : (s.setV x b).clear = s.clear := rfl
@[simp] theorem State.setV_draw (s : State) (x : Reg) (b : Byte) : (s.setV x b).draw = s.draw := rfl
@[simp] theorem State.setV_faultLatch (s : State) (x : Reg) (b : Byte) : (s.setV x b).faultLatch = s.faultLatch := rfl
@[simp] theorem State.setV_bootPhase (s : State) (x : Reg) (b : Byte) : (s.setV x b).bootPhase = s.bootPhase := rfl
@[simp] theorem State.setV_fontGlyphs (s : State) (x : Reg) (b : Byte) : (s.setV x b).fontGlyphs = s.fontGlyphs := rfl
@[simp] theorem State.setV_keyIn (s : State) (x : Reg) (b : Byte) : (s.setV x b).keyIn = s.keyIn := rfl
@[simp] theorem State.setV_rndIn (s : State) (x : Reg) (b : Byte) : (s.setV x b).rndIn = s.rndIn := rfl
@[simp] theorem State.setV_hostQueue (s : State) (x : Reg) (b : Byte) : (s.setV x b).hostQueue = s.hostQueue := rfl
@[simp] theorem State.setV_stepCount (s : State) (x : Reg) (b : Byte) : (s.setV x b).stepCount = s.stepCount := rfl

/-! ## State.setFirstRegs -/

@[simp] theorem State.setFirstRegs_v (s : State) (bs : List Byte) : (s.setFirstRegs bs).v = Vector.ofFn fun k => bs.getD k.val s.v[k.val] := rfl
@[simp] theorem State.setFirstRegs_i (s : State) (bs : List Byte) : (s.setFirstRegs bs).i = s.i := rfl
@[simp] theorem State.setFirstRegs_pc (s : State) (bs : List Byte) : (s.setFirstRegs bs).pc = s.pc := rfl
@[simp] theorem State.setFirstRegs_stack (s : State) (bs : List Byte) : (s.setFirstRegs bs).stack = s.stack := rfl
@[simp] theorem State.setFirstRegs_sp (s : State) (bs : List Byte) : (s.setFirstRegs bs).sp = s.sp := rfl
@[simp] theorem State.setFirstRegs_dt (s : State) (bs : List Byte) : (s.setFirstRegs bs).dt = s.dt := rfl
@[simp] theorem State.setFirstRegs_st (s : State) (bs : List Byte) : (s.setFirstRegs bs).st = s.st := rfl
@[simp] theorem State.setFirstRegs_vid (s : State) (bs : List Byte) : (s.setFirstRegs bs).vid = s.vid := rfl
@[simp] theorem State.setFirstRegs_mem (s : State) (bs : List Byte) : (s.setFirstRegs bs).mem = s.mem := rfl
@[simp] theorem State.setFirstRegs_clear (s : State) (bs : List Byte) : (s.setFirstRegs bs).clear = s.clear := rfl
@[simp] theorem State.setFirstRegs_draw (s : State) (bs : List Byte) : (s.setFirstRegs bs).draw = s.draw := rfl
@[simp] theorem State.setFirstRegs_faultLatch (s : State) (bs : List Byte) : (s.setFirstRegs bs).faultLatch = s.faultLatch := rfl
@[simp] theorem State.setFirstRegs_bootPhase (s : State) (bs : List Byte) : (s.setFirstRegs bs).bootPhase = s.bootPhase := rfl
@[simp] theorem State.setFirstRegs_fontGlyphs (s : State) (bs : List Byte) : (s.setFirstRegs bs).fontGlyphs = s.fontGlyphs := rfl
@[simp] theorem State.setFirstRegs_keyIn (s : State) (bs : List Byte) : (s.setFirstRegs bs).keyIn = s.keyIn := rfl
@[simp] theorem State.setFirstRegs_rndIn (s : State) (bs : List Byte) : (s.setFirstRegs bs).rndIn = s.rndIn := rfl
@[simp] theorem State.setFirstRegs_hostQueue (s : State) (bs : List Byte) : (s.setFirstRegs bs).hostQueue = s.hostQueue := rfl
@[simp] theorem State.setFirstRegs_stepCount (s : State) (bs : List Byte) : (s.setFirstRegs bs).stepCount = s.stepCount := rfl

/-! ## State.setPc -/

@[simp] theorem State.setPc_v (s : State) (a : Word) : (s.setPc a).v = s.v := rfl
@[simp] theorem State.setPc_i (s : State) (a : Word) : (s.setPc a).i = s.i := rfl
@[simp] theorem State.setPc_pc (s : State) (a : Word) : (s.setPc a).pc = a := rfl
@[simp] theorem State.setPc_stack (s : State) (a : Word) : (s.setPc a).stack = s.stack := rfl
@[simp] theorem State.setPc_sp (s : State) (a : Word) : (s.setPc a).sp = s.sp := rfl
@[simp] theorem State.setPc_dt (s : State) (a : Word) : (s.setPc a).dt = s.dt := rfl
@[simp] theorem State.setPc_st (s : State) (a : Word) : (s.setPc a).st = s.st := rfl
@[simp] theorem State.setPc_vid (s : State) (a : Word) : (s.setPc a).vid = s.vid := rfl
@[simp] theorem State.setPc_mem (s : State) (a : Word) : (s.setPc a).mem = s.mem := rfl
@[simp] theorem State.setPc_clear (s : State) (a : Word) : (s.setPc a).clear = s.clear := rfl
@[simp] theorem State.setPc_draw (s : State) (a : Word) : (s.setPc a).draw = s.draw := rfl
@[simp] theorem State.setPc_faultLatch (s : State) (a : Word) : (s.setPc a).faultLatch = s.faultLatch := rfl
@[simp] theorem State.setPc_bootPhase (s : State) (a : Word) : (s.setPc a).bootPhase = s.bootPhase := rfl
@[simp] theorem State.setPc_fontGlyphs (s : State) (a : Word) : (s.setPc a).fontGlyphs = s.fontGlyphs := rfl
@[simp] theorem State.setPc_keyIn (s : State) (a : Word) : (s.setPc a).keyIn = s.keyIn := rfl
@[simp] theorem State.setPc_rndIn (s : State) (a : Word) : (s.setPc a).rndIn = s.rndIn := rfl
@[simp] theorem State.setPc_hostQueue (s : State) (a : Word) : (s.setPc a).hostQueue = s.hostQueue := rfl
@[simp] theorem State.setPc_stepCount (s : State) (a : Word) : (s.setPc a).stepCount = s.stepCount := rfl

/-! ## State.setI -/

@[simp] theorem State.setI_v (s : State) (a : Word) : (s.setI a).v = s.v := rfl
@[simp] theorem State.setI_i (s : State) (a : Word) : (s.setI a).i = a := rfl
@[simp] theorem State.setI_pc (s : State) (a : Word) : (s.setI a).pc = s.pc := rfl
@[simp] theorem State.setI_stack (s : State) (a : Word) : (s.setI a).stack = s.stack := rfl
@[simp] theorem State.setI_sp (s : State) (a : Word) : (s.setI a).sp = s.sp := rfl
@[simp] theorem State.setI_dt (s : State) (a : Word) : (s.setI a).dt = s.dt := rfl
@[simp] theorem State.setI_st (s : State) (a : Word) : (s.setI a).st = s.st := rfl
@[simp] theorem State.setI_vid (s : State) (a : Word) : (s.setI a).vid = s.vid := rfl
@[simp] theorem State.setI_mem (s : State) (a : Word) : (s.setI a).mem = s.mem := rfl
@[simp] theorem State.setI_clear (s : State) (a : Word) : (s.setI a).clear = s.clear := rfl
@[simp] theorem State.setI_draw (s : State) (a : Word) : (s.setI a).draw = s.draw := rfl
@[simp] theorem State.setI_faultLatch (s : State) (a : Word) : (s.setI a).faultLatch = s.faultLatch := rfl
@[simp] theorem State.setI_bootPhase (s : State) (a : Word) : (s.setI a).bootPhase = s.bootPhase := rfl
@[simp] theorem State.setI_fontGlyphs (s : State) (a : Word) : (s.setI a).fontGlyphs = s.fontGlyphs := rfl
@[simp] theorem State.setI_keyIn (s : State) (a : Word) : (s.setI a).keyIn = s.keyIn := rfl
@[simp] theorem State.setI_rndIn (s : State) (a : Word) : (s.setI a).rndIn = s.rndIn := rfl
@[simp] theorem State.setI_hostQueue (s : State) (a : Word) : (s.setI a).hostQueue = s.hostQueue := rfl
@[simp] theorem State.setI_stepCount (s : State) (a : Word) : (s.setI a).stepCount = s.stepCount := rfl

/-! ## State.setDt -/

@[simp] theorem State.setDt_v (s : State) (b : Byte) : (s.setDt b).v = s.v := rfl
@[simp] theorem State.setDt_i (s : State) (b : Byte) : (s.setDt b).i = s.i := rfl
@[simp] theorem State.setDt_pc (s : State) (b : Byte) : (s.setDt b).pc = s.pc := rfl
@[simp] theorem State.setDt_stack (s : State) (b : Byte) : (s.setDt b).stack = s.stack := rfl
@[simp] theorem State.setDt_sp (s : State) (b : Byte) : (s.setDt b).sp = s.sp := rfl
@[simp] theorem State.setDt_dt (s : State) (b : Byte) : (s.setDt b).dt = b := rfl
@[simp] theorem State.setDt_st (s : State) (b : Byte) : (s.setDt b).st = s.st := rfl
@[simp] theorem State.setDt_vid (s : State) (b : Byte) : (s.setDt b).vid = s.vid := rfl
@[simp] theorem State.setDt_mem (s : State) (b : Byte) : (s.setDt b).mem = s.mem := rfl
@[simp] theorem State.setDt_clear (s : State) (b : Byte) : (s.setDt b).clear = s.clear := rfl
@[simp] theorem State.setDt_draw (s : State) (b : Byte) : (s.setDt b).draw = s.draw := rfl
@[simp] theorem State.setDt_faultLatch (s : State) (b : Byte) : (s.setDt b).faultLatch = s.faultLatch := rfl
@[simp] theorem State.setDt_bootPhase (s : State) (b : Byte) : (s.setDt b).bootPhase = s.bootPhase := rfl
@[simp] theorem State.setDt_fontGlyphs (s : State) (b : Byte) : (s.setDt b).fontGlyphs = s.fontGlyphs := rfl
@[simp] theorem State.setDt_keyIn (s : State) (b : Byte) : (s.setDt b).keyIn = s.keyIn := rfl
@[simp] theorem State.setDt_rndIn (s : State) (b : Byte) : (s.setDt b).rndIn = s.rndIn := rfl
@[simp] theorem State.setDt_hostQueue (s : State) (b : Byte) : (s.setDt b).hostQueue = s.hostQueue := rfl
@[simp] theorem State.setDt_stepCount (s : State) (b : Byte) : (s.setDt b).stepCount = s.stepCount := rfl

/-! ## State.setSt -/

@[simp] theorem State.setSt_v (s : State) (b : Byte) : (s.setSt b).v = s.v := rfl
@[simp] theorem State.setSt_i (s : State) (b : Byte) : (s.setSt b).i = s.i := rfl
@[simp] theorem State.setSt_pc (s : State) (b : Byte) : (s.setSt b).pc = s.pc := rfl
@[simp] theorem State.setSt_stack (s : State) (b : Byte) : (s.setSt b).stack = s.stack := rfl
@[simp] theorem State.setSt_sp (s : State) (b : Byte) : (s.setSt b).sp = s.sp := rfl
@[simp] theorem State.setSt_dt (s : State) (b : Byte) : (s.setSt b).dt = s.dt := rfl
@[simp] theorem State.setSt_st (s : State) (b : Byte) : (s.setSt b).st = b := rfl
@[simp] theorem State.setSt_vid (s : State) (b : Byte) : (s.setSt b).vid = s.vid := rfl
@[simp] theorem State.setSt_mem (s : State) (b : Byte) : (s.setSt b).mem = s.mem := rfl
@[simp] theorem State.setSt_clear (s : State) (b : Byte) : (s.setSt b).clear = s.clear := rfl
@[simp] theorem State.setSt_draw (s : State) (b : Byte) : (s.setSt b).draw = s.draw := rfl
@[simp] theorem State.setSt_faultLatch (s : State) (b : Byte) : (s.setSt b).faultLatch = s.faultLatch := rfl
@[simp] theorem State.setSt_bootPhase (s : State) (b : Byte) : (s.setSt b).bootPhase = s.bootPhase := rfl
@[simp] theorem State.setSt_fontGlyphs (s : State) (b : Byte) : (s.setSt b).fontGlyphs = s.fontGlyphs := rfl
@[simp] theorem State.setSt_keyIn (s : State) (b : Byte) : (s.setSt b).keyIn = s.keyIn := rfl
@[simp] theorem State.setSt_rndIn (s : State) (b : Byte) : (s.setSt b).rndIn = s.rndIn := rfl
@[simp] theorem State.setSt_hostQueue (s : State) (b : Byte) : (s.setSt b).hostQueue = s.hostQueue := rfl
@[simp] theorem State.setSt_stepCount (s : State) (b : Byte) : (s.setSt b).stepCount = s.stepCount := rfl

/-! ## State.setMem -/

@[simp] theorem State.setMem_v (s : State) (m : Memory) : (s.setMem m).v = s.v := rfl
@[simp] theorem State.setMem_i (s : State) (m : Memory) : (s.setMem m).i = s.i := rfl
@[simp] theorem State.setMem_pc (s : State) (m : Memory) : (s.setMem m).pc = s.pc := rfl
@[simp] theorem State.setMem_stack (s : State) (m : Memory) : (s.setMem m).stack = s.stack := rfl
@[simp] theorem State.setMem_sp (s : State) (m : Memory) : (s.setMem m).sp = s.sp := rfl
@[simp] theorem State.setMem_dt (s : State) (m : Memory) : (s.setMem m).dt = s.dt := rfl
@[simp] theorem State.setMem_st (s : State) (m : Memory) : (s.setMem m).st = s.st := rfl
@[simp] theorem State.setMem_vid (s : State) (m : Memory) : (s.setMem m).vid = s.vid := rfl
@[simp] theorem State.setMem_mem (s : State) (m : Memory) : (s.setMem m).mem = m := rfl
@[simp] theorem State.setMem_clear (s : State) (m : Memory) : (s.setMem m).clear = s.clear := rfl
@[simp] theorem State.setMem_draw (s : State) (m : Memory) : (s.setMem m).draw = s.draw := rfl
@[simp] theorem State.setMem_faultLatch (s : State) (m : Memory) : (s.setMem m).faultLatch = s.faultLatch := rfl
@[simp] theorem State.setMem_bootPhase (s : State) (m : Memory) : (s.setMem m).bootPhase = s.bootPhase := rfl
@[simp] theorem State.setMem_fontGlyphs (s : State) (m : Memory) : (s.setMem m).fontGlyphs = s.fontGlyphs := rfl
@[simp] theorem State.setMem_keyIn (s : State) (m : Memory) : (s.setMem m).keyIn = s.keyIn := rfl
@[simp] theorem State.setMem_rndIn (s : State) (m : Memory) : (s.setMem m).rndIn = s.rndIn := rfl
@[simp] theorem State.setMem_hostQueue (s : State) (m : Memory) : (s.setMem m).hostQueue = s.hostQueue := rfl
@[simp] theorem State.setMem_stepCount (s : State) (m : Memory) : (s.setMem m).stepCount = s.stepCount := rfl

/-! ## State.setDrawn -/

@[simp] theorem State.setDrawn_v (s : State) (vid : Vector Bool 2048) : (s.setDrawn vid).v = s.v := rfl
@[simp] theorem State.setDrawn_i (s : State) (vid : Vector Bool 2048) : (s.setDrawn vid).i = s.i := rfl
@[simp] theorem State.setDrawn_pc (s : State) (vid : Vector Bool 2048) : (s.setDrawn vid).pc = s.pc := rfl
@[simp] theorem State.setDrawn_stack (s : State) (vid : Vector Bool 2048) : (s.setDrawn vid).stack = s.stack := rfl
@[simp] theorem State.setDrawn_sp (s : State) (vid : Vector Bool 2048) : (s.setDrawn vid).sp = s.sp := rfl
@[simp] theorem State.setDrawn_dt (s : State) (vid : Vector Bool 2048) : (s.setDrawn vid).dt = s.dt := rfl
@[simp] theorem State.setDrawn_st (s : State) (vid : Vector Bool 2048) : (s.setDrawn vid).st = s.st := rfl
@[simp] theorem State.setDrawn_vid (s : State) (vid : Vector Bool 2048) : (s.setDrawn vid).vid = vid := rfl
@[simp] theorem State.setDrawn_mem (s : State) (vid : Vector Bool 2048) : (s.setDrawn vid).mem = s.mem := rfl
@[simp] theorem State.setDrawn_clear (s : State) (vid : Vector Bool 2048) : (s.setDrawn vid).clear = s.clear := rfl
@[simp] theorem State.setDrawn_draw (s : State) (vid : Vector Bool 2048) : (s.setDrawn vid).draw = true := rfl
@[simp] theorem State.setDrawn_faultLatch (s : State) (vid : Vector Bool 2048) : (s.setDrawn vid).faultLatch = s.faultLatch := rfl
@[simp] theorem State.setDrawn_bootPhase (s : State) (vid : Vector Bool 2048) : (s.setDrawn vid).bootPhase = s.bootPhase := rfl
@[simp] theorem State.setDrawn_fontGlyphs (s : State) (vid : Vector Bool 2048) : (s.setDrawn vid).fontGlyphs = s.fontGlyphs := rfl
@[simp] theorem State.setDrawn_keyIn (s : State) (vid : Vector Bool 2048) : (s.setDrawn vid).keyIn = s.keyIn := rfl
@[simp] theorem State.setDrawn_rndIn (s : State) (vid : Vector Bool 2048) : (s.setDrawn vid).rndIn = s.rndIn := rfl
@[simp] theorem State.setDrawn_hostQueue (s : State) (vid : Vector Bool 2048) : (s.setDrawn vid).hostQueue = s.hostQueue := rfl
@[simp] theorem State.setDrawn_stepCount (s : State) (vid : Vector Bool 2048) : (s.setDrawn vid).stepCount = s.stepCount := rfl

/-! ## State.clearVideo -/

@[simp] theorem State.clearVideo_v (s : State) : (s.clearVideo).v = s.v := rfl
@[simp] theorem State.clearVideo_i (s : State) : (s.clearVideo).i = s.i := rfl
@[simp] theorem State.clearVideo_pc (s : State) : (s.clearVideo).pc = s.pc := rfl
@[simp] theorem State.clearVideo_stack (s : State) : (s.clearVideo).stack = s.stack := rfl
@[simp] theorem State.clearVideo_sp (s : State) : (s.clearVideo).sp = s.sp := rfl
@[simp] theorem State.clearVideo_dt (s : State) : (s.clearVideo).dt = s.dt := rfl
@[simp] theorem State.clearVideo_st (s : State) : (s.clearVideo).st = s.st := rfl
@[simp] theorem State.clearVideo_vid (s : State) : (s.clearVideo).vid = Vector.replicate 2048 false := rfl
@[simp] theorem State.clearVideo_mem (s : State) : (s.clearVideo).mem = s.mem := rfl
@[simp] theorem State.clearVideo_clear (s : State) : (s.clearVideo).clear = true := rfl
@[simp] theorem State.clearVideo_draw (s : State) : (s.clearVideo).draw = s.draw := rfl
@[simp] theorem State.clearVideo_faultLatch (s : State) : (s.clearVideo).faultLatch = s.faultLatch := rfl
@[simp] theorem State.clearVideo_bootPhase (s : State) : (s.clearVideo).bootPhase = s.bootPhase := rfl
@[simp] theorem State.clearVideo_fontGlyphs (s : State) : (s.clearVideo).fontGlyphs = s.fontGlyphs := rfl
@[simp] theorem State.clearVideo_keyIn (s : State) : (s.clearVideo).keyIn = s.keyIn := rfl
@[simp] theorem State.clearVideo_rndIn (s : State) : (s.clearVideo).rndIn = s.rndIn := rfl
@[simp] theorem State.clearVideo_hostQueue (s : State) : (s.clearVideo).hostQueue = s.hostQueue := rfl
@[simp] theorem State.clearVideo_stepCount (s : State) : (s.clearVideo).stepCount = s.stepCount := rfl

/-! ## State.tick -/

@[simp] theorem State.tick_v (s : State) : (s.tick).v = s.v := rfl
@[simp] theorem State.tick_i (s : State) : (s.tick).i = s.i := rfl
@[simp] theorem State.tick_pc (s : State) : (s.tick).pc = s.pc := rfl
@[simp] theorem State.tick_stack (s : State) : (s.tick).stack = s.stack := rfl
@[simp] theorem State.tick_sp (s : State) : (s.tick).sp = s.sp := rfl
@[simp] theorem State.tick_dt (s : State) : (s.tick).dt = tickByte s.dt := rfl
@[simp] theorem State.tick_st (s : State) : (s.tick).st = tickByte s.st := rfl
@[simp] theorem State.tick_vid (s : State) : (s.tick).vid = s.vid := rfl
@[simp] theorem State.tick_mem (s : State) : (s.tick).mem = s.mem := rfl
@[simp] theorem State.tick_clear (s : State) : (s.tick).clear = s.clear := rfl
@[simp] theorem State.tick_draw (s : State) : (s.tick).draw = s.draw := rfl
@[simp] theorem State.tick_faultLatch (s : State) : (s.tick).faultLatch = s.faultLatch := rfl
@[simp] theorem State.tick_bootPhase (s : State) : (s.tick).bootPhase = s.bootPhase := rfl
@[simp] theorem State.tick_fontGlyphs (s : State) : (s.tick).fontGlyphs = s.fontGlyphs := rfl
@[simp] theorem State.tick_keyIn (s : State) : (s.tick).keyIn = s.keyIn := rfl
@[simp] theorem State.tick_rndIn (s : State) : (s.tick).rndIn = s.rndIn := rfl
@[simp] theorem State.tick_hostQueue (s : State) : (s.tick).hostQueue = s.hostQueue := rfl
@[simp] theorem State.tick_stepCount (s : State) : (s.tick).stepCount = s.stepCount := rfl

/-! ## State.tickTimes -/

@[simp] theorem State.tickTimes_v (s : State) (n : Nat) : (s.tickTimes n).v = s.v := rfl
@[simp] theorem State.tickTimes_i (s : State) (n : Nat) : (s.tickTimes n).i = s.i := rfl
@[simp] theorem State.tickTimes_pc (s : State) (n : Nat) : (s.tickTimes n).pc = s.pc := rfl
@[simp] theorem State.tickTimes_stack (s : State) (n : Nat) : (s.tickTimes n).stack = s.stack := rfl
@[simp] theorem State.tickTimes_sp (s : State) (n : Nat) : (s.tickTimes n).sp = s.sp := rfl
@[simp] theorem State.tickTimes_dt (s : State) (n : Nat) : (s.tickTimes n).dt = countDown n s.dt := rfl
@[simp] theorem State.tickTimes_st (s : State) (n : Nat) : (s.tickTimes n).st = countDown n s.st := rfl
@[simp] theorem State.tickTimes_vid (s : State) (n : Nat) : (s.tickTimes n).vid = s.vid := rfl
@[simp] theorem State.tickTimes_mem (s : State) (n : Nat) : (s.tickTimes n).mem = s.mem := rfl
@[simp] theorem State.tickTimes_clear (s : State) (n : Nat) : (s.tickTimes n).clear = s.clear := rfl
@[simp] theorem State.tickTimes_draw (s : State) (n : Nat) : (s.tickTimes n).draw = s.draw := rfl
@[simp] theorem State.tickTimes_faultLatch (s : State) (n : Nat) : (s.tickTimes n).faultLatch = s.faultLatch := rfl
@[simp] theorem State.tickTimes_bootPhase (s : State) (n : Nat) : (s.tickTimes n).bootPhase = s.bootPhase := rfl
@[simp] theorem State.tickTimes_fontGlyphs (s : State) (n : Nat) : (s.tickTimes n).fontGlyphs = s.fontGlyphs := rfl
@[simp] theorem State.tickTimes_keyIn (s : State) (n : Nat) : (s.tickTimes n).keyIn = s.keyIn := rfl
@[simp] theorem State.tickTimes_rndIn (s : State) (n : Nat) : (s.tickTimes n).rndIn = s.rndIn := rfl
@[simp] theorem State.tickTimes_hostQueue (s : State) (n : Nat) : (s.tickTimes n).hostQueue = s.hostQueue := rfl
@[simp] theorem State.tickTimes_stepCount (s : State) (n : Nat) : (s.tickTimes n).stepCount = s.stepCount := rfl

/-! ## State.popTurn -/

@[simp] theorem State.popTurn_v (s : State) : (s.popTurn).v = s.v := rfl
@[simp] theorem State.popTurn_i (s : State) : (s.popTurn).i = s.i := rfl
@[simp] theorem State.popTurn_pc (s : State) : (s.popTurn).pc = s.pc := rfl
@[simp] theorem State.popTurn_stack (s : State) : (s.popTurn).stack = s.stack := rfl
@[simp] theorem State.popTurn_sp (s : State) : (s.popTurn).sp = s.sp := rfl
@[simp] theorem State.popTurn_dt (s : State) : (s.popTurn).dt = s.dt := rfl
@[simp] theorem State.popTurn_st (s : State) : (s.popTurn).st = s.st := rfl
@[simp] theorem State.popTurn_vid (s : State) : (s.popTurn).vid = s.vid := rfl
@[simp] theorem State.popTurn_mem (s : State) : (s.popTurn).mem = s.mem := rfl
@[simp] theorem State.popTurn_clear (s : State) : (s.popTurn).clear = s.clear := rfl
@[simp] theorem State.popTurn_draw (s : State) : (s.popTurn).draw = s.draw := rfl
@[simp] theorem State.popTurn_faultLatch (s : State) : (s.popTurn).faultLatch = s.faultLatch := rfl
@[simp] theorem State.popTurn_bootPhase (s : State) : (s.popTurn).bootPhase = s.bootPhase := rfl
@[simp] theorem State.popTurn_fontGlyphs (s : State) : (s.popTurn).fontGlyphs = s.fontGlyphs := rfl
@[simp] theorem State.popTurn_keyIn (s : State) : (s.popTurn).keyIn = s.keyIn := rfl
@[simp] theorem State.popTurn_rndIn (s : State) : (s.popTurn).rndIn = s.rndIn := rfl
@[simp] theorem State.popTurn_hostQueue (s : State) : (s.popTurn).hostQueue = s.hostQueue.tail := rfl
@[simp] theorem State.popTurn_stepCount (s : State) : (s.popTurn).stepCount = s.stepCount := rfl

/-! ## State.beginStep -/

@[simp] theorem State.beginStep_v (s : State) (key : Option Key) (rnd : Byte) : (s.beginStep key rnd).v = s.v := rfl
@[simp] theorem State.beginStep_i (s : State) (key : Option Key) (rnd : Byte) : (s.beginStep key rnd).i = s.i := rfl
@[simp] theorem State.beginStep_pc (s : State) (key : Option Key) (rnd : Byte) : (s.beginStep key rnd).pc = s.pc := rfl
@[simp] theorem State.beginStep_stack (s : State) (key : Option Key) (rnd : Byte) : (s.beginStep key rnd).stack = s.stack := rfl
@[simp] theorem State.beginStep_sp (s : State) (key : Option Key) (rnd : Byte) : (s.beginStep key rnd).sp = s.sp := rfl
@[simp] theorem State.beginStep_dt (s : State) (key : Option Key) (rnd : Byte) : (s.beginStep key rnd).dt = s.dt := rfl
@[simp] theorem State.beginStep_st (s : State) (key : Option Key) (rnd : Byte) : (s.beginStep key rnd).st = s.st := rfl
@[simp] theorem State.beginStep_vid (s : State) (key : Option Key) (rnd : Byte) : (s.beginStep key rnd).vid = s.vid := rfl
@[simp] theorem State.beginStep_mem (s : State) (key : Option Key) (rnd : Byte) : (s.beginStep key rnd).mem = s.mem := rfl
@[simp] theorem State.beginStep_clear (s : State) (key : Option Key) (rnd : Byte) : (s.beginStep key rnd).clear = false := rfl
@[simp] theorem State.beginStep_draw (s : State) (key : Option Key) (rnd : Byte) : (s.beginStep key rnd).draw = false := rfl
@[simp] theorem State.beginStep_faultLatch (s : State) (key : Option Key) (rnd : Byte) : (s.beginStep key rnd).faultLatch = s.faultLatch := rfl
@[simp] theorem State.beginStep_bootPhase (s : State) (key : Option Key) (rnd : Byte) : (s.beginStep key rnd).bootPhase = .running := rfl
@[simp] theorem State.beginStep_fontGlyphs (s : State) (key : Option Key) (rnd : Byte) : (s.beginStep key rnd).fontGlyphs = s.fontGlyphs := rfl
@[simp] theorem State.beginStep_keyIn (s : State) (key : Option Key) (rnd : Byte) : (s.beginStep key rnd).keyIn = key := rfl
@[simp] theorem State.beginStep_rndIn (s : State) (key : Option Key) (rnd : Byte) : (s.beginStep key rnd).rndIn = rnd := rfl
@[simp] theorem State.beginStep_hostQueue (s : State) (key : Option Key) (rnd : Byte) : (s.beginStep key rnd).hostQueue = s.hostQueue := rfl
@[simp] theorem State.beginStep_stepCount (s : State) (key : Option Key) (rnd : Byte) : (s.beginStep key rnd).stepCount = s.stepCount + 1 := rfl

/-! ## State.loadRom -/

@[simp] theorem State.loadRom_v (s : State) (bytes : List Byte) : (s.loadRom bytes).v = s.v := rfl
@[simp] theorem State.loadRom_i (s : State) (bytes : List Byte) : (s.loadRom bytes).i = s.i := rfl
@[simp] theorem State.loadRom_pc (s : State) (bytes : List Byte) : (s.loadRom bytes).pc = s.pc := rfl
@[simp] theorem State.loadRom_stack (s : State) (bytes : List Byte) : (s.loadRom bytes).stack = s.stack := rfl
@[simp] theorem State.loadRom_sp (s : State) (bytes : List Byte) : (s.loadRom bytes).sp = s.sp := rfl
@[simp] theorem State.loadRom_dt (s : State) (bytes : List Byte) : (s.loadRom bytes).dt = s.dt := rfl
@[simp] theorem State.loadRom_st (s : State) (bytes : List Byte) : (s.loadRom bytes).st = s.st := rfl
@[simp] theorem State.loadRom_vid (s : State) (bytes : List Byte) : (s.loadRom bytes).vid = s.vid := rfl
@[simp] theorem State.loadRom_mem (s : State) (bytes : List Byte) : (s.loadRom bytes).mem = s.mem.writeAll s.fontGlyphs romBase bytes := rfl
@[simp] theorem State.loadRom_clear (s : State) (bytes : List Byte) : (s.loadRom bytes).clear = s.clear := rfl
@[simp] theorem State.loadRom_draw (s : State) (bytes : List Byte) : (s.loadRom bytes).draw = s.draw := rfl
@[simp] theorem State.loadRom_faultLatch (s : State) (bytes : List Byte) : (s.loadRom bytes).faultLatch = s.faultLatch := rfl
@[simp] theorem State.loadRom_bootPhase (s : State) (bytes : List Byte) : (s.loadRom bytes).bootPhase = .romLoaded := rfl
@[simp] theorem State.loadRom_fontGlyphs (s : State) (bytes : List Byte) : (s.loadRom bytes).fontGlyphs = s.fontGlyphs := rfl
@[simp] theorem State.loadRom_keyIn (s : State) (bytes : List Byte) : (s.loadRom bytes).keyIn = s.keyIn := rfl
@[simp] theorem State.loadRom_rndIn (s : State) (bytes : List Byte) : (s.loadRom bytes).rndIn = s.rndIn := rfl
@[simp] theorem State.loadRom_hostQueue (s : State) (bytes : List Byte) : (s.loadRom bytes).hostQueue = s.hostQueue := rfl
@[simp] theorem State.loadRom_stepCount (s : State) (bytes : List Byte) : (s.loadRom bytes).stepCount = s.stepCount := rfl

/-! ## State.skipIf, by its condition -/

@[simp] theorem State.skipIf_pc (s : State) (c : Bool) :
    (s.skipIf c).pc = if c then s.pc + 2 else s.pc := by
  cases c <;> rfl

@[simp] theorem State.skipIf_v (s : State) (c : Bool) : (s.skipIf c).v = s.v := by cases c <;> rfl
@[simp] theorem State.skipIf_i (s : State) (c : Bool) : (s.skipIf c).i = s.i := by cases c <;> rfl
@[simp] theorem State.skipIf_stack (s : State) (c : Bool) : (s.skipIf c).stack = s.stack := by cases c <;> rfl
@[simp] theorem State.skipIf_sp (s : State) (c : Bool) : (s.skipIf c).sp = s.sp := by cases c <;> rfl
@[simp] theorem State.skipIf_dt (s : State) (c : Bool) : (s.skipIf c).dt = s.dt := by cases c <;> rfl
@[simp] theorem State.skipIf_st (s : State) (c : Bool) : (s.skipIf c).st = s.st := by cases c <;> rfl
@[simp] theorem State.skipIf_vid (s : State) (c : Bool) : (s.skipIf c).vid = s.vid := by cases c <;> rfl
@[simp] theorem State.skipIf_mem (s : State) (c : Bool) : (s.skipIf c).mem = s.mem := by cases c <;> rfl
@[simp] theorem State.skipIf_clear (s : State) (c : Bool) : (s.skipIf c).clear = s.clear := by cases c <;> rfl
@[simp] theorem State.skipIf_draw (s : State) (c : Bool) : (s.skipIf c).draw = s.draw := by cases c <;> rfl
@[simp] theorem State.skipIf_faultLatch (s : State) (c : Bool) : (s.skipIf c).faultLatch = s.faultLatch := by cases c <;> rfl
@[simp] theorem State.skipIf_bootPhase (s : State) (c : Bool) : (s.skipIf c).bootPhase = s.bootPhase := by cases c <;> rfl
@[simp] theorem State.skipIf_fontGlyphs (s : State) (c : Bool) : (s.skipIf c).fontGlyphs = s.fontGlyphs := by cases c <;> rfl
@[simp] theorem State.skipIf_keyIn (s : State) (c : Bool) : (s.skipIf c).keyIn = s.keyIn := by cases c <;> rfl
@[simp] theorem State.skipIf_rndIn (s : State) (c : Bool) : (s.skipIf c).rndIn = s.rndIn := by cases c <;> rfl
@[simp] theorem State.skipIf_hostQueue (s : State) (c : Bool) : (s.skipIf c).hostQueue = s.hostQueue := by cases c <;> rfl
@[simp] theorem State.skipIf_stepCount (s : State) (c : Bool) : (s.skipIf c).stepCount = s.stepCount := by cases c <;> rfl

/-! ## FONT_GLYPHS after the updates that replace most of the state -/

@[simp] theorem State.resetWith_fontGlyphs (font : FontTable) : (State.resetWith font).fontGlyphs = font := rfl
@[simp] theorem State.resetAgain_fontGlyphs (s : State) : s.resetAgain.fontGlyphs = s.fontGlyphs := rfl
@[simp] theorem State.latchFault_fontGlyphs (s : State) (e : Fault) :
    (s.latchFault e).fontGlyphs = s.fontGlyphs := by
  unfold State.latchFault
  split <;> rfl

/-! ## State.setResultAndFlag: only the register file -/

@[simp] theorem State.setResultAndFlag_v (s : State) (x : Reg) (b : Byte) (f : Bool) :
    (s.setResultAndFlag x b f).v = (s.v.set x.toNat b).set regF.toNat (flagByte f) := rfl

@[simp] theorem State.setResultAndFlag_i (s : State) (x : Reg) (b : Byte) (f : Bool) :
    (s.setResultAndFlag x b f).i = s.i := rfl
@[simp] theorem State.setResultAndFlag_pc (s : State) (x : Reg) (b : Byte) (f : Bool) :
    (s.setResultAndFlag x b f).pc = s.pc := rfl
@[simp] theorem State.setResultAndFlag_stack (s : State) (x : Reg) (b : Byte) (f : Bool) :
    (s.setResultAndFlag x b f).stack = s.stack := rfl
@[simp] theorem State.setResultAndFlag_sp (s : State) (x : Reg) (b : Byte) (f : Bool) :
    (s.setResultAndFlag x b f).sp = s.sp := rfl
@[simp] theorem State.setResultAndFlag_dt (s : State) (x : Reg) (b : Byte) (f : Bool) :
    (s.setResultAndFlag x b f).dt = s.dt := rfl
@[simp] theorem State.setResultAndFlag_st (s : State) (x : Reg) (b : Byte) (f : Bool) :
    (s.setResultAndFlag x b f).st = s.st := rfl
@[simp] theorem State.setResultAndFlag_vid (s : State) (x : Reg) (b : Byte) (f : Bool) :
    (s.setResultAndFlag x b f).vid = s.vid := rfl
@[simp] theorem State.setResultAndFlag_mem (s : State) (x : Reg) (b : Byte) (f : Bool) :
    (s.setResultAndFlag x b f).mem = s.mem := rfl
@[simp] theorem State.setResultAndFlag_clear (s : State) (x : Reg) (b : Byte) (f : Bool) :
    (s.setResultAndFlag x b f).clear = s.clear := rfl
@[simp] theorem State.setResultAndFlag_draw (s : State) (x : Reg) (b : Byte) (f : Bool) :
    (s.setResultAndFlag x b f).draw = s.draw := rfl
@[simp] theorem State.setResultAndFlag_faultLatch (s : State) (x : Reg) (b : Byte) (f : Bool) :
    (s.setResultAndFlag x b f).faultLatch = s.faultLatch := rfl
@[simp] theorem State.setResultAndFlag_bootPhase (s : State) (x : Reg) (b : Byte) (f : Bool) :
    (s.setResultAndFlag x b f).bootPhase = s.bootPhase := rfl
@[simp] theorem State.setResultAndFlag_fontGlyphs (s : State) (x : Reg) (b : Byte) (f : Bool) :
    (s.setResultAndFlag x b f).fontGlyphs = s.fontGlyphs := rfl
@[simp] theorem State.setResultAndFlag_keyIn (s : State) (x : Reg) (b : Byte) (f : Bool) :
    (s.setResultAndFlag x b f).keyIn = s.keyIn := rfl
@[simp] theorem State.setResultAndFlag_rndIn (s : State) (x : Reg) (b : Byte) (f : Bool) :
    (s.setResultAndFlag x b f).rndIn = s.rndIn := rfl
@[simp] theorem State.setResultAndFlag_hostQueue (s : State) (x : Reg) (b : Byte) (f : Bool) :
    (s.setResultAndFlag x b f).hostQueue = s.hostQueue := rfl
@[simp] theorem State.setResultAndFlag_stepCount (s : State) (x : Reg) (b : Byte) (f : Bool) :
    (s.setResultAndFlag x b f).stepCount = s.stepCount := rfl

end Sys2Proof.Machine
end

