-- ==== Sys2Proof/Laws/StackTimers.lean ====
section
/-! SUPPORT. What the stack controller and the timers can do (10_state.md R27, R28, 60_exceptions.md
R185). -/

namespace Sys2Proof.Machine

/-- Push below the capacity (R27). -/
theorem push_ok (addr : Word) (s : State) (h : s.sp.val < 16) :
    push addr s =
      .ok { s with stack := s.stack.set s.sp.val addr h, sp := ⟨s.sp.val + 1, by omega⟩ } := by
  simp [push, h]

/-- Push on the full stack (R27). -/
theorem push_full (addr : Word) (s : State) (h : s.sp.val = 16) : push addr s = .error .stackOverflow := by
  simp [push, h]

/-- Pop above the empty stack (R28). -/
theorem pop_ok (s : State) (h : 0 < s.sp.val) :
    pop s = .ok (s.stack[s.sp.val - 1]'(by omega), { s with sp := ⟨s.sp.val - 1, by omega⟩ }) := by
  simp [pop, h]

/-- Pop of the empty stack (R28). -/
theorem pop_empty (s : State) (h : s.sp.val = 0) : pop s = .error .stackUnderflow := by
  simp [pop, h]

theorem countDown_zero (b : Byte) : countDown 0 b = b := by
  unfold countDown
  split
  · exact Eq.symm ‹_›
  · simp

theorem toNat_countDown (n : Nat) (b : Byte) : (countDown n b).toNat = b.toNat - n := by
  have := b.isLt
  unfold countDown
  split
  · simp_all
  · simp; omega

theorem toNat_tickByte (b : Byte) : (tickByte b).toNat = b.toNat - 1 := by
  have := b.isLt
  unfold tickByte
  split
  · simp_all
  · rename_i h
    have h0 : b.toNat ≠ 0 := fun h0 => h (BitVec.eq_of_toNat_eq h0)
    rw [BitVec.toNat_sub]
    simp
    omega

theorem countDown_succ (n : Nat) (b : Byte) : countDown (n + 1) b = countDown n (tickByte b) := by
  apply BitVec.eq_of_toNat_eq
  rw [toNat_countDown, toNat_countDown, toNat_tickByte]
  omega

/-- Several ticks at once are that many ticks (R185). -/
theorem State.tickTimes_eq_iterate (n : Nat) (s : State) : s.tickTimes n = State.tick^[n] s := by
  induction n generalizing s with
  | zero => simp [State.tickTimes, countDown_zero]
  | succ n ih =>
    rw [Function.iterate_succ_apply, ← ih]
    simp [State.tickTimes, countDown_succ, State.tick]

end Sys2Proof.Machine
end

