-- ==== Sys2Proof/Laws/Registers.lean ====
section
/-! SUPPORT. Reading a general register after each update of the state (10_state.md R20, R21). -/

namespace Sys2Proof.Machine

theorem State.getV_setV (s : State) (x r : Reg) (b : Byte) :
    (s.setV x b).getV r = if r = x then b else s.getV r := by
  simp only [State.getV, State.setV_v, Vector.getElem_set]
  by_cases h : r = x
  · simp [h]
  · rw [if_neg (fun hx => h (BitVec.eq_of_toNat_eq hx.symm)), if_neg h]

@[simp] theorem State.getV_setV_self (s : State) (x : Reg) (b : Byte) : (s.setV x b).getV x = b := by
  simp [State.getV_setV]

/-- VF is written last: what VF holds is the flag, whichever register the result went to
(70_reset_and_hazards.md R210). -/
@[simp] theorem State.getV_setResultAndFlag_regF (s : State) (x : Reg) (b : Byte) (f : Bool) :
    (s.setResultAndFlag x b f).getV regF = flagByte f := by
  simp [State.setResultAndFlag]

theorem State.getV_setResultAndFlag (s : State) (x r : Reg) (b : Byte) (f : Bool) (hr : r ≠ regF) :
    (s.setResultAndFlag x b f).getV r = if r = x then b else s.getV r := by
  rw [State.setResultAndFlag, State.getV_setV, if_neg hr, State.getV_setV]

theorem State.getV_setFirstRegs (s : State) (bs : List Byte) (r : Reg) :
    (s.setFirstRegs bs).getV r = if h : r.toNat < bs.length then bs[r.toNat] else s.getV r := by
  simp only [State.getV, State.setFirstRegs_v, Vector.getElem_ofFn]
  split
  · rw [List.getD_eq_getElem _ _ ‹_›]
  · rw [List.getD_eq_default _ _ (by omega)]

theorem State.length_firstRegs (s : State) (x : Reg) : (s.firstRegs x).length = x.toNat + 1 := by
  have := x.isLt
  simp [State.firstRegs]
  omega

theorem State.getElem_firstRegs (s : State) (x : Reg) (k : Nat) (h : k < (s.firstRegs x).length) :
    (s.firstRegs x)[k] = s.getV (BitVec.ofNat 4 k) := by
  have hk : k < 16 := by have := s.length_firstRegs x; have := x.isLt; omega
  simp [State.firstRegs, State.getV, Nat.mod_eq_of_lt hk]

/-! The updates that leave the register file alone leave every register as it was. -/

@[simp] theorem State.getV_setPc (s : State) (a : Word) (r : Reg) : (s.setPc a).getV r = s.getV r := rfl
@[simp] theorem State.getV_setI (s : State) (a : Word) (r : Reg) : (s.setI a).getV r = s.getV r := rfl
@[simp] theorem State.getV_setDt (s : State) (b : Byte) (r : Reg) : (s.setDt b).getV r = s.getV r := rfl
@[simp] theorem State.getV_setSt (s : State) (b : Byte) (r : Reg) : (s.setSt b).getV r = s.getV r := rfl
@[simp] theorem State.getV_setMem (s : State) (m : Memory) (r : Reg) : (s.setMem m).getV r = s.getV r := rfl
@[simp] theorem State.getV_setDrawn (s : State) (vid : Vector Bool 2048) (r : Reg) :
    (s.setDrawn vid).getV r = s.getV r := rfl
@[simp] theorem State.getV_clearVideo (s : State) (r : Reg) : s.clearVideo.getV r = s.getV r := rfl
@[simp] theorem State.getV_tickTimes (s : State) (n : Nat) (r : Reg) :
    (s.tickTimes n).getV r = s.getV r := rfl
@[simp] theorem State.getV_skipIf (s : State) (c : Bool) (r : Reg) : (s.skipIf c).getV r = s.getV r := by
  cases c <;> rfl

end Sys2Proof.Machine
end

