-- ==== Sys2Proof/Laws/Memory.lean ====
section
/-! SUPPORT. The memory array (20_memory.md): every operation keeps the canonical form, a read after a
write gives the value written, a write leaves every other address alone, and what the byte-by-byte
accesses of an instruction answer. -/

namespace Sys2Proof.Machine

variable {font : FontTable}

/-! ## The canonical form -/

theorem Memory.wfFrom_cons {lo k : Nat} {b : Byte} {rest : Memory} :
    Memory.wfFrom font lo ((k, b) :: rest) = true ↔
      lo ≤ k ∧ k < 0x1000 ∧ b ≠ Config.resetByte font k ∧ Memory.wfFrom font (k + 1) rest = true := by
  simp [Memory.wfFrom, and_assoc]

theorem Memory.wfFrom_mono {lo lo' : Nat} (h : lo' ≤ lo) {m : Memory}
    (hm : Memory.wfFrom font lo m = true) : Memory.wfFrom font lo' m = true := by
  cases m with
  | nil => rfl
  | cons c rest =>
    obtain ⟨k, b⟩ := c
    rw [Memory.wfFrom_cons] at hm ⊢
    exact ⟨by omega, hm.2⟩

theorem Memory.lookup_below {lo a : Nat} (h : a < lo) {m : Memory}
    (hm : Memory.wfFrom font lo m = true) : m.lookup a = none := by
  cases m with
  | nil => rfl
  | cons c rest =>
    obtain ⟨k, b⟩ := c
    rw [Memory.wfFrom_cons] at hm
    simp [Memory.lookup, show a ≠ k by omega, show a < k by omega]

theorem Memory.write_wfFrom {lo a : Nat} (ha : a < 0x1000) (hlo : lo ≤ a) (b : Byte) {m : Memory}
    (hm : Memory.wfFrom font lo m = true) : Memory.wfFrom font lo (m.write font a b) = true := by
  induction m generalizing lo with
  | nil =>
    unfold Memory.write
    split
    · rfl
    · rw [Memory.wfFrom_cons]; exact ⟨hlo, ha, ‹_›, rfl⟩
  | cons c rest ih =>
    obtain ⟨k, c⟩ := c
    have hc := Memory.wfFrom_cons.mp hm
    unfold Memory.write
    split
    · split
      · exact hm
      · rw [Memory.wfFrom_cons, Memory.wfFrom_cons]
        exact ⟨hlo, ha, ‹_›, by omega, hc.2.1, hc.2.2⟩
    · split
      · subst a
        split
        · exact Memory.wfFrom_mono (by omega) hc.2.2.2
        · rw [Memory.wfFrom_cons]; exact ⟨hlo, ha, ‹_›, hc.2.2.2⟩
      · rw [Memory.wfFrom_cons]
        exact ⟨hc.1, hc.2.1, hc.2.2.1, ih (by omega) hc.2.2.2⟩

theorem Memory.write_wf {a : Nat} (ha : a < 0x1000) (b : Byte) {m : Memory} (hm : m.wf font = true) :
    (m.write font a b).wf font = true :=
  Memory.write_wfFrom ha (Nat.zero_le a) b hm

theorem Memory.read_write_from {lo : Nat} (a : Nat) (b : Byte) {m : Memory}
    (hm : Memory.wfFrom font lo m = true) (a' : Nat) :
    (m.write font a b).read font a' = if a' = a then b else m.read font a' := by
  induction m generalizing lo with
  | nil =>
    unfold Memory.write
    split <;> by_cases h : a' = a <;> simp_all [Memory.read, Memory.lookup]
  | cons c rest ih =>
    obtain ⟨k, c⟩ := c
    have hc := Memory.wfFrom_cons.mp hm
    have ih := ih hc.2.2.2
    unfold Memory.write
    split
    · split
      · by_cases h : a' = a
        · subst h; simp_all [Memory.read, Memory.lookup, show a' ≠ k by omega]
        · simp [h]
      · by_cases h : a' = a
        · subst h; simp [Memory.read, Memory.lookup]
        · by_cases h2 : a' < a
          · simp [Memory.read, Memory.lookup, h, h2, show a' ≠ k by omega, show a' < k by omega]
          · simp [Memory.read, Memory.lookup, h, h2]
    · split
      · subst a
        split
        · by_cases h : a' = k
          · subst h; simp_all [Memory.read, Memory.lookup_below (Nat.lt_succ_self a') hc.2.2.2]
          · by_cases h2 : a' < k
            · simp [Memory.read, Memory.lookup, h, h2, Memory.lookup_below (by omega : a' < k+1) hc.2.2.2]
            · simp [Memory.read, Memory.lookup, h, h2]
        · by_cases h : a' = k
          · subst h; simp [Memory.read, Memory.lookup]
          · simp [Memory.read, Memory.lookup, h]
      · by_cases h : a' = k
        · subst h; simp [Memory.read, Memory.lookup, show a' ≠ a by omega]
        · by_cases h2 : a' < k
          · simp [Memory.read, Memory.lookup, h, h2, show a' ≠ a by omega]
          · simpa [Memory.read, Memory.lookup, h, h2] using ih

theorem Memory.ofBytes_wfFrom (font : FontTable) (f : Nat → Byte) {lo count : Nat} (h : lo + count ≤ 0x1000) :
    Memory.wfFrom font lo (Memory.ofBytes font f lo count) = true := by
  induction count generalizing lo with
  | zero => rfl
  | succ n ih =>
    have := ih (lo := lo + 1) (by omega)
    unfold Memory.ofBytes
    split
    · exact Memory.wfFrom_mono (by omega) this
    · rw [Memory.wfFrom_cons]; exact ⟨le_refl _, by omega, ‹_›, this⟩

/-- The memory after `Reset` is in canonical form, and reads as the font and zeros (R201, R200). -/
theorem State.resetWith_mem_wf (font : FontTable) : (State.resetWith font).mem.wf font = true := rfl

theorem State.byteAt_resetWith (font : FontTable) (a : Nat) :
    (State.resetWith font).byteAt a = Config.resetByte font a := rfl

theorem resetByte_font {a : Nat} (h : a < 80) : Config.resetByte font a = font[a] :=
  dif_pos h

theorem resetByte_zero {a : Nat} (h : 80 ≤ a) : Config.resetByte font a = 0x00 :=
  dif_neg (by omega)

/-- Read after write (R41, R42, R52). -/
theorem Memory.read_write {m : Memory} (hm : m.wf font = true) (a : Nat) (b : Byte) (a' : Nat) :
    (m.write font a b).read font a' = if a' = a then b else m.read font a' :=
  Memory.read_write_from a b hm a'

/-! ## Runs of bytes -/

theorem Memory.writeAll_wf {m : Memory} (hm : m.wf font = true) (addr : Nat) (bs : List Byte)
    (h : bs = [] ∨ addr + bs.length ≤ 0x1000) : (m.writeAll font addr bs).wf font = true := by
  induction bs generalizing m addr with
  | nil => exact hm
  | cons b bs ih =>
    have h : addr + (bs.length + 1) ≤ 0x1000 := by simpa using h
    exact ih (Memory.write_wf (by omega) b hm) _ (.inr (by omega))

theorem Memory.read_writeAll {m : Memory} (hm : m.wf font = true) (addr : Nat) (bs : List Byte)
    (h : bs = [] ∨ addr + bs.length ≤ 0x1000) (a : Nat) :
    (m.writeAll font addr bs).read font a =
      if h : addr ≤ a ∧ a < addr + bs.length then bs[a - addr]'(by omega) else m.read font a := by
  induction bs generalizing m addr with
  | nil => rw [dif_neg (by simp)]; rfl
  | cons b bs ih =>
    have h : addr + (bs.length + 1) ≤ 0x1000 := by simpa using h
    have hw := Memory.write_wf (by omega : addr < 0x1000) b hm
    rw [show m.writeAll font addr (b :: bs) = (m.write font addr b).writeAll font (addr + 1) bs from rfl,
      ih hw _ (.inr (by omega)), Memory.read_write hm]
    by_cases ha : a = addr
    · subst ha
      rw [dif_neg (by omega), dif_pos (by simp)]
      simp
    · by_cases hin : addr + 1 ≤ a ∧ a < addr + 1 + bs.length
      · rw [dif_pos hin, dif_pos (by simp; omega)]
        obtain ⟨j, rfl⟩ : ∃ j, a = addr + 1 + j := ⟨a - (addr + 1), by omega⟩
        simp [show addr + 1 + j - addr = j + 1 by omega]
      · rw [dif_neg hin, dif_neg (by simp; omega), if_neg ha]

/-- A run of reads succeeds exactly when its bytes exist, and gives them in order (R41, R51). -/
theorem readBytes_ok (font : FontTable) (m : Memory) (addr count : Nat) (h : count = 0 ∨ addr + count ≤ 0x1000) :
    readBytes font m addr count = .ok ((List.range count).map fun k => m.read font (addr + k)) := by
  induction count generalizing addr with
  | zero => rfl
  | succ n ih =>
    simp [readBytes, memRead, show addr < 0x1000 by omega, ih (addr + 1) (by omega),
      List.range_succ_eq_map, Nat.add_assoc, Nat.add_comm 1]

/-- A run of reads that leaves memory faults with its first byte address out of range (R41, R51,
60_exceptions.md R179). -/
theorem readBytes_error (font : FontTable) (m : Memory) (addr count : Nat) (hc : count ≠ 0) (h : 0x1000 < addr + count) :
    readBytes font m addr count = .error (.outOfBounds (max addr 0x1000)) := by
  induction count generalizing addr with
  | zero => exact absurd rfl hc
  | succ n ih =>
    unfold readBytes memRead
    by_cases ha : addr < 0x1000
    · rw [if_pos ha]
      simp only
      rw [ih (addr + 1) (by omega) (by omega)]
      simp only [Except.error.injEq, Fault.outOfBounds.injEq]
      omega
    · rw [if_neg ha, Nat.max_eq_left (by omega)]

/-- A run of writes succeeds exactly when its bytes exist (R42, R51). -/
theorem writeBytes_ok (font : FontTable) (m : Memory) (addr : Nat) (bs : List Byte)
    (h : bs = [] ∨ addr + bs.length ≤ 0x1000) : writeBytes font m addr bs = .ok (m.writeAll font addr bs) := by
  induction bs generalizing m addr with
  | nil => rfl
  | cons b bs ih =>
    have h : addr + (bs.length + 1) ≤ 0x1000 := by simpa using h
    simp only [writeBytes, memWrite, if_pos (show addr < 0x1000 by omega)]
    exact ih _ _ (.inr (by omega))

/-- A run of writes that leaves memory faults with its first byte address out of range (R42, R51,
60_exceptions.md R179). -/
theorem writeBytes_error (font : FontTable) (m : Memory) (addr : Nat) (bs : List Byte) (hb : bs ≠ [])
    (h : 0x1000 < addr + bs.length) :
    writeBytes font m addr bs = .error (.outOfBounds (max addr 0x1000)) := by
  induction bs generalizing m addr with
  | nil => exact absurd rfl hb
  | cons b bs ih =>
    have h : 0x1000 < addr + (bs.length + 1) := by simpa using h
    unfold writeBytes memWrite
    by_cases ha : addr < 0x1000
    · rw [if_pos ha]
      simp only
      by_cases hbs : bs = []
      · subst hbs; simp at h; omega
      · rw [ih _ _ hbs (by omega)]
        simp only [Except.error.injEq, Fault.outOfBounds.injEq]
        omega
    · rw [if_neg ha, Nat.max_eq_left (by omega)]

/-- Whatever a run of writes answers, the memory it answers is in canonical form. -/
theorem writeBytes_wf {m m' : Memory} {addr : Nat} {bs : List Byte} (hm : m.wf font = true)
    (h : writeBytes font m addr bs = .ok m') : m'.wf font = true := by
  by_cases hb : bs = [] ∨ addr + bs.length ≤ 0x1000
  · rw [writeBytes_ok font m addr bs hb, Except.ok.injEq] at h
    exact h ▸ Memory.writeAll_wf hm addr bs hb
  · rw [not_or] at hb
    rw [writeBytes_error font m addr bs hb.1 (by omega)] at h
    cases h

/-- A fetch succeeds exactly where both its bytes exist (R44). -/
theorem fetchWord_ok (font : FontTable) (m : Memory) (addr : Nat) (h : addr + 1 < 0x1000) :
    fetchWord font m addr = .ok (wordOfBytes (m.read font addr) (m.read font (addr + 1))) := by
  simp [fetchWord, memRead, show addr < 0x1000 by omega, show addr + 1 < 0x1000 by omega]

/-- A fetch elsewhere faults with its first byte address out of range (R44). -/
theorem fetchWord_error (font : FontTable) (m : Memory) (addr : Nat) (h : 0x1000 ≤ addr + 1) :
    fetchWord font m addr = .error (.outOfBounds (max addr 0x1000)) := by
  by_cases ha : addr < 0x1000
  · simp [fetchWord, memRead, ha, show ¬ addr + 1 < 0x1000 by omega]
    omega
  · simp [fetchWord, memRead, ha]
    omega

/-! ## A ROM image (70_reset_and_hazards.md R205) -/

theorem wellFormedRom_iff (bytes : List Byte) : wellFormedRom bytes = true ↔ bytes.length ≤ 0xE00 := by
  unfold wellFormedRom
  exact decide_eq_true_iff

/-- Loading a ROM that fits keeps memory in canonical form. -/
theorem State.loadRom_mem_wf {s : State} (hm : s.mem.wf s.fontGlyphs = true) {bytes : List Byte}
    (h : bytes.length ≤ 0xE00) : (s.loadRom bytes).mem.wf s.fontGlyphs = true :=
  Memory.writeAll_wf hm romBase bytes (.inr (by unfold romBase; omega))

/-- What every byte of memory holds after a ROM that fits is loaded. -/
theorem State.byteAt_loadRom {s : State} (hm : s.mem.wf s.fontGlyphs = true) {bytes : List Byte}
    (h : bytes.length ≤ 0xE00) (a : Nat) :
    (s.loadRom bytes).byteAt a =
      if h : 0x200 ≤ a ∧ a < 0x200 + bytes.length then bytes[a - 0x200]'(by omega) else s.byteAt a :=
  Memory.read_writeAll hm romBase bytes (.inr (by unfold romBase; omega)) a

/-! ## The updates that leave memory alone leave every byte as it was -/

@[simp] theorem State.byteAt_setV (s : State) (x : Reg) (b : Byte) (a : Nat) :
    (s.setV x b).byteAt a = s.byteAt a := rfl
@[simp] theorem State.byteAt_setResultAndFlag (s : State) (x : Reg) (b : Byte) (f : Bool) (a : Nat) :
    (s.setResultAndFlag x b f).byteAt a = s.byteAt a := rfl
@[simp] theorem State.byteAt_setFirstRegs (s : State) (bs : List Byte) (a : Nat) :
    (s.setFirstRegs bs).byteAt a = s.byteAt a := rfl
@[simp] theorem State.byteAt_setPc (s : State) (p : Word) (a : Nat) :
    (s.setPc p).byteAt a = s.byteAt a := rfl
@[simp] theorem State.byteAt_setI (s : State) (p : Word) (a : Nat) : (s.setI p).byteAt a = s.byteAt a := rfl
@[simp] theorem State.byteAt_setDt (s : State) (b : Byte) (a : Nat) : (s.setDt b).byteAt a = s.byteAt a := rfl
@[simp] theorem State.byteAt_setSt (s : State) (b : Byte) (a : Nat) : (s.setSt b).byteAt a = s.byteAt a := rfl
@[simp] theorem State.byteAt_setDrawn (s : State) (vid : Vector Bool 2048) (a : Nat) :
    (s.setDrawn vid).byteAt a = s.byteAt a := rfl
@[simp] theorem State.byteAt_clearVideo (s : State) (a : Nat) : s.clearVideo.byteAt a = s.byteAt a := rfl
@[simp] theorem State.byteAt_skipIf (s : State) (c : Bool) (a : Nat) :
    (s.skipIf c).byteAt a = s.byteAt a := by
  cases c <;> rfl
@[simp] theorem State.byteAt_setMem (s : State) (m : Memory) (a : Nat) :
    (s.setMem m).byteAt a = m.read s.fontGlyphs a := rfl

end Sys2Proof.Machine
end

