-- ==== Sys2Proof/Laws/Video.lean ====
section
/-! SUPPORT. Sprites on the video buffer (41_display.md R91, R92): where a sprite's pixels land, that no
pixel is reached twice, and what toggling a list of pixels leaves. -/

namespace Sys2Proof.Machine

/-! ## Placement -/

/-- On the screen both edge rules place a pixel alike (R91). -/
theorem place_onScreen (edge : DrawEdge) (x0 y0 : Byte) (r c : Nat)
    (h : x0.toNat % 64 + c < 64 ∧ y0.toNat % 32 + r < 32) :
    place edge x0 y0 r c = some ⟨(y0.toNat % 32 + r) * 64 + (x0.toNat % 64 + c), by omega⟩ := by
  simp only [place, dif_pos h]

/-- R91's WRAP: the coordinates modulo 64 and 32. -/
theorem place_wrap (x0 y0 : Byte) (r c : Nat) :
    place .wrap x0 y0 r c =
      some ⟨(y0.toNat + r) % 32 * 64 + (x0.toNat + c) % 64, by omega⟩ := by
  unfold place
  split <;> simp only [Option.some.injEq, Fin.mk.injEq] <;> omega

/-- R91's CLIP: nothing beyond an edge. -/
theorem place_clip (x0 y0 : Byte) (r c : Nat) :
    place .clip x0 y0 r c =
      if h : x0.toNat % 64 + c < 64 ∧ y0.toNat % 32 + r < 32 then
        some ⟨(y0.toNat % 32 + r) * 64 + (x0.toNat % 64 + c), by omega⟩
      else none := rfl

/-- Whatever the edge rule, a placed pixel has the coordinates of WRAP. -/
theorem place_val {edge : DrawEdge} {x0 y0 : Byte} {r c : Nat} {p : Pixel}
    (h : place edge x0 y0 r c = some p) :
    p.val = (y0.toNat + r) % 32 * 64 + (x0.toNat + c) % 64 := by
  cases edge with
  | wrap =>
    rw [place_wrap, Option.some.injEq] at h
    rw [← h]
  | clip =>
    rw [place_clip] at h
    split at h
    · rw [Option.some.injEq] at h
      rw [← h]
      simp only
      omega
    · cases h

/-- Within one sprite, different rows or columns land on different pixels. -/
theorem place_inj {edge : DrawEdge} {x0 y0 : Byte} {r c r' c' : Nat} {p : Pixel} (hr : r < 32)
    (hr' : r' < 32) (hc : c < 8) (hc' : c' < 8) (h : place edge x0 y0 r c = some p)
    (h' : place edge x0 y0 r' c' = some p) : r = r' ∧ c = c' := by
  have h1 := place_val h
  have h2 := place_val h'
  omega

theorem mem_rowPixels {edge : DrawEdge} {x0 y0 : Byte} {r : Nat} {b : Byte} {p : Pixel} :
    p ∈ rowPixels edge x0 y0 r b ↔
      ∃ c, c < 8 ∧ b.getLsbD (7 - c) = true ∧ place edge x0 y0 r c = some p := by
  simp [rowPixels, List.mem_filterMap]

theorem mem_spritePixels {edge : DrawEdge} {x0 y0 : Byte} {r : Nat} {bs : List Byte} {p : Pixel} :
    p ∈ spritePixels edge x0 y0 r bs ↔
      ∃ (k : Nat) (_ : k < bs.length), p ∈ rowPixels edge x0 y0 (r + k) bs[k] := by
  induction bs generalizing r with
  | nil => simp [spritePixels]
  | cons b bs ih =>
    rw [spritePixels, List.mem_append, ih]
    constructor
    · rintro (h | ⟨k, hk, h⟩)
      · exact ⟨0, by simp, by simpa using h⟩
      · exact ⟨k + 1, by simpa using hk, by simpa [Nat.add_assoc, Nat.add_comm 1] using h⟩
    · rintro ⟨k, hk, h⟩
      cases k with
      | zero => exact .inl (by simpa using h)
      | succ k => exact .inr ⟨k, by simpa using hk, by simpa [Nat.add_assoc, Nat.add_comm 1] using h⟩

theorem rowPixels_nodup (edge : DrawEdge) (x0 y0 : Byte) {r : Nat} (hr : r < 32) (b : Byte) :
    (rowPixels edge x0 y0 r b).Nodup := by
  refine List.pairwise_filterMap.mpr (List.nodup_range.imp_of_mem ?_)
  intro c c' hc hc' hne p hp p' hp'
  rintro rfl
  simp only [List.mem_range] at hc hc'
  have hp : place edge x0 y0 r c = some p := by
    revert hp; cases b.getLsbD (7 - c) <;> simp
  have hp' : place edge x0 y0 r c' = some p := by
    revert hp'; cases b.getLsbD (7 - c') <;> simp
  exact hne (place_inj hr hr hc hc' hp hp').2

/-- A sprite of at most 32 rows reaches no pixel twice. -/
theorem spritePixels_nodup (edge : DrawEdge) (x0 y0 : Byte) (r : Nat) (bs : List Byte)
    (h : r + bs.length ≤ 32) : (spritePixels edge x0 y0 r bs).Nodup := by
  induction bs generalizing r with
  | nil => exact List.nodup_nil
  | cons b bs ih =>
    have h : r + (bs.length + 1) ≤ 32 := h
    rw [spritePixels, List.nodup_append]
    refine ⟨rowPixels_nodup edge x0 y0 (by omega) b, ih (r + 1) (by omega), ?_⟩
    rintro p hp q hq rfl
    obtain ⟨c, hc, -, hpc⟩ := mem_rowPixels.mp hp
    obtain ⟨k, hk, hq⟩ := mem_spritePixels.mp hq
    obtain ⟨c', hc', -, hpc'⟩ := mem_rowPixels.mp hq
    have := (place_inj (by omega) (by omega) hc hc' hpc hpc').1
    omega

/-! ## Toggling -/

theorem foldl_togglePixel (ps : List Pixel) (hn : ps.Nodup) (vid : Vector Bool 2048) (hit : Bool) :
    (∀ q : Pixel, (ps.foldl togglePixel (vid, hit)).1[q.val] = (vid[q.val] != decide (q ∈ ps))) ∧
    ((ps.foldl togglePixel (vid, hit)).2 = (hit || ps.any fun p => vid[p.val])) := by
  induction ps generalizing vid hit with
  | nil => simp
  | cons p ps ih =>
    obtain ⟨hp, hn⟩ := List.nodup_cons.mp hn
    obtain ⟨h1, h2⟩ := ih hn (vid.set p.val (!vid[p.val])) (hit || vid[p.val])
    constructor
    · intro q
      rw [List.foldl_cons, togglePixel, h1, Vector.getElem_set]
      by_cases hq : q = p
      · subst hq
        simp [hp]
      · rw [if_neg (fun h => hq (Fin.ext h.symm))]
        simp [hq]
    · rw [List.foldl_cons, togglePixel, h2, List.any_cons, Bool.or_assoc]
      congr 2
      apply Bool.eq_iff_iff.mpr
      simp only [List.any_eq_true]
      refine exists_congr fun q => and_congr_right fun hq => ?_
      rw [Vector.getElem_set, if_neg (fun h => hp ((Fin.ext h : p = q) ▸ hq))]

/-- Toggling pixels, none of them twice, changes exactly those (R92). -/
theorem getElem_togglePixels (vid : Vector Bool 2048) (ps : List Pixel) (hn : ps.Nodup) (q : Pixel) :
    (togglePixels vid ps).1[q.val] = (vid[q.val] != decide (q ∈ ps)) :=
  (foldl_togglePixel ps hn vid false).1 q

/-- The collision: some toggled pixel was on (R92). -/
theorem togglePixels_collision (vid : Vector Bool 2048) (ps : List Pixel) (hn : ps.Nodup) :
    (togglePixels vid ps).2 = ps.any fun p => vid[p.val] := by
  rw [togglePixels, (foldl_togglePixel ps hn vid false).2, Bool.false_or]

/-- Dxyn when every row byte exists: what it reads and what it leaves (R92). -/
theorem drawSprite_ok (edge : DrawEdge) (x y : Reg) (n : Nibble) (s : State)
    (h : n.toNat = 0 ∨ s.i.toNat + n.toNat ≤ 0x1000) :
    drawSprite edge x y n s =
      let rows := (List.range n.toNat).map fun k => s.byteAt (s.i.toNat + k)
      let drawn := togglePixels s.vid (spritePixels edge (s.getV x) (s.getV y) 0 rows)
      .ok ((s.setDrawn drawn.1).setV regF (flagByte drawn.2)) := by
  rw [drawSprite, readBytes_ok s.fontGlyphs s.mem s.i.toNat n.toNat h]
  rfl

/-- Dxyn when a row byte does not exist (R92, R51). -/
theorem drawSprite_error (edge : DrawEdge) (x y : Reg) (n : Nibble) (s : State) (hn : n.toNat ≠ 0)
    (h : 0x1000 < s.i.toNat + n.toNat) :
    drawSprite edge x y n s = .error (.outOfBounds (max s.i.toNat 0x1000)) := by
  rw [drawSprite, readBytes_error s.fontGlyphs s.mem s.i.toNat n.toNat hn h]

end Sys2Proof.Machine
end

