-- ==== Sys2Proof/Laws/Exec.lean ====
section
/-! SUPPORT. The six instructions that can fault: when each completes, with the state it leaves, and when
it faults. (Every other meaning is a next state by definition.) -/

namespace Sys2Proof.Machine

/-! ## 00EE and 2nnn (42_control_flow.md R100, R102) -/

theorem execRet_ok (s : State) (h : 0 < s.sp.val) :
    execRet s = .next
      (State.setPc { s with sp := ⟨s.sp.val - 1, by omega⟩ } (s.stack[s.sp.val - 1]'(by omega))) := by
  rw [execRet, pop_ok s h]

theorem execRet_empty (s : State) (h : s.sp.val = 0) : execRet s = .fault .stackUnderflow := by
  rw [execRet, pop_empty s h]

theorem execRet_next {s t : State} (h : execRet s = .next t) :
    ∃ hs : 0 < s.sp.val,
      t = State.setPc { s with sp := ⟨s.sp.val - 1, by omega⟩ } (s.stack[s.sp.val - 1]'(by omega)) := by
  by_cases hs : 0 < s.sp.val
  · rw [execRet_ok s hs, Host.Outcome.next.injEq] at h
    exact ⟨hs, h.symm⟩
  · rw [execRet_empty s (by omega)] at h
    cases h

theorem execCall_ok (nnn : Addr) (s : State) (h : s.sp.val < 16) :
    execCall nnn s = .next
      (State.setPc { s with stack := s.stack.set s.sp.val s.pc h, sp := ⟨s.sp.val + 1, by omega⟩ }
        (zextAddr nnn)) := by
  rw [execCall, push_ok s.pc s h]

theorem execCall_full (nnn : Addr) (s : State) (h : s.sp.val = 16) :
    execCall nnn s = .fault .stackOverflow := by
  rw [execCall, push_full s.pc s h]

theorem execCall_next {nnn : Addr} {s t : State} (h : execCall nnn s = .next t) :
    ∃ hs : s.sp.val < 16,
      t = State.setPc
        { s with stack := s.stack.set s.sp.val s.pc hs, sp := ⟨s.sp.val + 1, by omega⟩ }
        (zextAddr nnn) := by
  by_cases hs : s.sp.val < 16
  · rw [execCall_ok nnn s hs, Host.Outcome.next.injEq] at h
    exact ⟨hs, h.symm⟩
  · rw [execCall_full nnn s (by have := s.sp.isLt; omega)] at h
    cases h

/-! ## Dxyn (41_display.md R92) -/

theorem execDrw_ok (x y : Reg) (n : Nibble) (s : State)
    (h : n.toNat = 0 ∨ s.i.toNat + n.toNat ≤ 0x1000) :
    execDrw x y n s =
      let rows := (List.range n.toNat).map fun k => s.byteAt (s.i.toNat + k)
      let drawn := togglePixels s.vid
        (spritePixels Config.drawEdge (s.getV x) (s.getV y) 0 rows)
      .next ((s.setDrawn drawn.1).setV regF (flagByte drawn.2)) := by
  rw [execDrw, drawSprite_ok Config.drawEdge x y n s h]
  rfl

theorem execDrw_outOfBounds (x y : Reg) (n : Nibble) (s : State) (hn : n.toNat ≠ 0)
    (h : 0x1000 < s.i.toNat + n.toNat) :
    execDrw x y n s = .fault (.outOfBounds (max s.i.toNat 0x1000)) := by
  rw [execDrw, drawSprite_error Config.drawEdge x y n s hn h]
  rfl

theorem execDrw_next {x y : Reg} {n : Nibble} {s t : State} (h : execDrw x y n s = .next t) :
    (n.toNat = 0 ∨ s.i.toNat + n.toNat ≤ 0x1000) ∧
      ∃ vid hit, t = (s.setDrawn vid).setV regF (flagByte hit) := by
  by_cases hb : n.toNat = 0 ∨ s.i.toNat + n.toNat ≤ 0x1000
  · rw [execDrw_ok x y n s hb, Host.Outcome.next.injEq] at h
    exact ⟨hb, _, _, h.symm⟩
  · rw [not_or] at hb
    rw [execDrw_outOfBounds x y n s hb.1 (by omega)] at h
    cases h

/-! ## Fx33 and Fx55 (44_index_memory.md R143, R144) -/

theorem execLdBcd_ok (x : Reg) (s : State) (h : s.i.toNat + 3 ≤ 0x1000) :
    execLdBcd x s = .next (s.setMem (s.mem.writeAll s.fontGlyphs (s.effAddr 0) (bcdDigits (s.getV x)))) := by
  have hb : bcdDigits (s.getV x) = [] ∨ s.effAddr 0 + (bcdDigits (s.getV x)).length ≤ 0x1000 :=
    .inr h
  rw [execLdBcd, writeBytes_ok _ _ _ _ hb]

theorem execLdBcd_outOfBounds (x : Reg) (s : State) (h : 0x1000 < s.i.toNat + 3) :
    execLdBcd x s = .fault (.outOfBounds (max s.i.toNat 0x1000)) := by
  have hb : 0x1000 < s.effAddr 0 + (bcdDigits (s.getV x)).length := h
  have hne : bcdDigits (s.getV x) ≠ [] := List.cons_ne_nil _ _
  rw [execLdBcd, writeBytes_error _ _ _ _ hne hb]
  rfl

theorem execLdBcd_next {x : Reg} {s t : State} (h : execLdBcd x s = .next t) :
    s.i.toNat + 3 ≤ 0x1000 ∧
      t = s.setMem (s.mem.writeAll s.fontGlyphs (s.effAddr 0) (bcdDigits (s.getV x))) := by
  by_cases hb : s.i.toNat + 3 ≤ 0x1000
  · rw [execLdBcd_ok x s hb, Host.Outcome.next.injEq] at h
    exact ⟨hb, h.symm⟩
  · rw [execLdBcd_outOfBounds x s (by omega)] at h
    cases h

theorem execStoreRegs_ok (x : Reg) (s : State) (h : s.i.toNat + x.toNat + 1 ≤ 0x1000) :
    execStoreRegs x s = .next (s.setMem (s.mem.writeAll s.fontGlyphs (s.effAddr 0) (s.firstRegs x))) := by
  have hb : s.firstRegs x = [] ∨ s.effAddr 0 + (s.firstRegs x).length ≤ 0x1000 := by
    rw [s.length_firstRegs x]
    exact .inr h
  rw [execStoreRegs, writeBytes_ok _ _ _ _ hb]

theorem execStoreRegs_outOfBounds (x : Reg) (s : State) (h : 0x1000 < s.i.toNat + x.toNat + 1) :
    execStoreRegs x s = .fault (.outOfBounds (max s.i.toNat 0x1000)) := by
  have hl := s.length_firstRegs x
  have hb : 0x1000 < s.effAddr 0 + (s.firstRegs x).length := by
    rw [hl]
    exact h
  rw [execStoreRegs, writeBytes_error _ _ _ _ (List.ne_nil_of_length_pos (by omega)) hb]
  rfl

theorem execStoreRegs_next {x : Reg} {s t : State} (h : execStoreRegs x s = .next t) :
    s.i.toNat + x.toNat + 1 ≤ 0x1000 ∧
      t = s.setMem (s.mem.writeAll s.fontGlyphs (s.effAddr 0) (s.firstRegs x)) := by
  by_cases hb : s.i.toNat + x.toNat + 1 ≤ 0x1000
  · rw [execStoreRegs_ok x s hb, Host.Outcome.next.injEq] at h
    exact ⟨hb, h.symm⟩
  · rw [execStoreRegs_outOfBounds x s (by omega)] at h
    cases h

/-! ## Fx65 (44_index_memory.md R145) -/

theorem execLoadRegs_ok (x : Reg) (s : State) (h : s.i.toNat + x.toNat + 1 ≤ 0x1000) :
    execLoadRegs x s = .next
      (s.setFirstRegs ((List.range (x.toNat + 1)).map fun k => s.byteAt (s.i.toNat + k))) := by
  have hb : x.toNat + 1 = 0 ∨ s.effAddr 0 + (x.toNat + 1) ≤ 0x1000 := .inr h
  rw [execLoadRegs, readBytes_ok _ _ _ _ hb]
  rfl

theorem execLoadRegs_outOfBounds (x : Reg) (s : State) (h : 0x1000 < s.i.toNat + x.toNat + 1) :
    execLoadRegs x s = .fault (.outOfBounds (max s.i.toNat 0x1000)) := by
  have hb : 0x1000 < s.effAddr 0 + (x.toNat + 1) := h
  rw [execLoadRegs, readBytes_error _ _ _ _ (by omega) hb]
  rfl

theorem execLoadRegs_next {x : Reg} {s t : State} (h : execLoadRegs x s = .next t) :
    s.i.toNat + x.toNat + 1 ≤ 0x1000 ∧
      t = s.setFirstRegs ((List.range (x.toNat + 1)).map fun k => s.byteAt (s.i.toNat + k)) := by
  by_cases hb : s.i.toNat + x.toNat + 1 ≤ 0x1000
  · rw [execLoadRegs_ok x s hb, Host.Outcome.next.injEq] at h
    exact ⟨hb, h.symm⟩
  · rw [execLoadRegs_outOfBounds x s (by omega)] at h
    cases h

end Sys2Proof.Machine
end

