-- ==== Sys2Proof/Laws/PerInstr.lean ====
section
/-! SUPPORT. For every instruction: its encoding is selected by the row of the opcode map that bears its
mnemonic (30_encoding.md R64). -/

namespace Sys2Proof.Laws.SelectedByOwnRow

/-- The row of the instruction's mnemonic selects the instruction's word. -/
def Statement (i : Instr) : Prop :=
  ∃ row ∈ opcodeRows, row.mnemonic = i.mnemonic ∧ row.selects (encode i) = true

/-- The nibbles a row fixes, checked one by one on a word of four nibbles. -/
theorem selects_ofNibbles (a b c d pa pb pc pd ma mb mc md : Nibble) (ha : a &&& ma = pa)
    (hb : b &&& mb = pb) (hc : c &&& mc = pc) (hd : d &&& md = pd) :
    ofNibbles a b c d &&& ofNibbles ma mb mc md = ofNibbles pa pb pc pd := by
  subst ha hb hc hd
  apply BitVec.eq_of_getLsbD_eq
  intro i hi
  simp only [ofNibbles, BitVec.getLsbD_and, BitVec.getLsbD_append]
  split <;> [rfl; (split <;> [rfl; (split <;> rfl)])]

/-- The word of a family, a register and a byte, as four nibbles. -/
theorem ofByteForm_eq (f : Nibble) (x : Reg) (kk : Byte) :
    ofByteForm f x kk = ofNibbles f x (kk.extractLsb' 4 4) (kk.extractLsb' 0 4) := by
  rw [← ofNibbles_fields (ofByteForm f x kk), fields_ofByteForm]

/-- The word of a family and an address, as four nibbles. -/
theorem ofAddrForm_eq (f : Nibble) (nnn : Addr) :
    ofAddrForm f nnn =
      ofNibbles f (nnn.extractLsb' 8 4) (nnn.extractLsb' 4 4) (nnn.extractLsb' 0 4) := by
  rw [← ofNibbles_fields (ofAddrForm f nnn), fields_ofAddrForm]

/-- A row that fixes the family only selects every word of the family. -/
theorem family (m : String) {f : Nibble} (h : ⟨m, ofNibbles f 0 0 0, 0xF000⟩ ∈ opcodeRows)
    {i : Instr} (hm : i.mnemonic = m) (b c d : Nibble) (he : encode i = ofNibbles f b c d) :
    Statement i :=
  ⟨_, h, hm.symm, beq_iff_eq.mpr (by
    rw [he]
    exact selects_ofNibbles f b c d f 0 0 0 0xF 0 0 0 (BitVec.and_allOnes) (by simp) (by simp) (by simp))⟩

/-- A row that fixes the family and n selects every word of the family with that n. -/
theorem familyAndN (m : String) {f n : Nibble} (h : ⟨m, ofNibbles f 0 0 n, 0xF00F⟩ ∈ opcodeRows)
    {i : Instr} (hm : i.mnemonic = m) (b c : Nibble) (he : encode i = ofNibbles f b c n) :
    Statement i :=
  ⟨_, h, hm.symm, beq_iff_eq.mpr (by
    rw [he]
    exact selects_ofNibbles f b c n f 0 0 n 0xF 0 0 0xF (BitVec.and_allOnes) (by simp) (by simp)
      (BitVec.and_allOnes))⟩

/-- A row that fixes the family and kk selects every word of the family with that kk. -/
theorem familyAndKk (m : String) {f c d : Nibble} (h : ⟨m, ofNibbles f 0 c d, 0xF0FF⟩ ∈ opcodeRows)
    {i : Instr} (hm : i.mnemonic = m) (b : Nibble) (he : encode i = ofNibbles f b c d) :
    Statement i :=
  ⟨_, h, hm.symm, beq_iff_eq.mpr (by
    rw [he]
    exact selects_ofNibbles f b c d f 0 c d 0xF 0 0xF 0xF (BitVec.and_allOnes) (by simp)
      (BitVec.and_allOnes) (BitVec.and_allOnes))⟩

theorem cls : Statement .cls := ⟨⟨"CLS", 0x00E0, 0xFFFF⟩, by decide, rfl, by decide⟩
theorem ret : Statement .ret := ⟨⟨"RET", 0x00EE, 0xFFFF⟩, by decide, rfl, by decide⟩
theorem jp (nnn : Addr) : Statement (.jp nnn) :=
  family "JP_addr" (f := 0x1) (by decide) rfl _ _ _ (ofAddrForm_eq _ _)
theorem call (nnn : Addr) : Statement (.call nnn) :=
  family "CALL_addr" (f := 0x2) (by decide) rfl _ _ _ (ofAddrForm_eq _ _)
theorem seByte (x : Reg) (kk : Byte) : Statement (.seByte x kk) :=
  family "SE_Vx__byte" (f := 0x3) (by decide) rfl _ _ _ (ofByteForm_eq _ _ _)
theorem sneByte (x : Reg) (kk : Byte) : Statement (.sneByte x kk) :=
  family "SNE_Vx__byte" (f := 0x4) (by decide) rfl _ _ _ (ofByteForm_eq _ _ _)
theorem seReg (x y : Reg) : Statement (.seReg x y) := familyAndN "SE_Vx__Vy" (f := 0x5) (by decide) rfl _ _ rfl
theorem ldByte (x : Reg) (kk : Byte) : Statement (.ldByte x kk) :=
  family "LD_Vx__byte" (f := 0x6) (by decide) rfl _ _ _ (ofByteForm_eq _ _ _)
theorem addByte (x : Reg) (kk : Byte) : Statement (.addByte x kk) :=
  family "ADD_Vx__byte" (f := 0x7) (by decide) rfl _ _ _ (ofByteForm_eq _ _ _)
theorem ldReg (x y : Reg) : Statement (.ldReg x y) := familyAndN "LD_Vx__Vy" (f := 0x8) (by decide) rfl _ _ rfl
theorem orReg (x y : Reg) : Statement (.orReg x y) := familyAndN "OR_Vx__Vy" (f := 0x8) (by decide) rfl _ _ rfl
theorem andReg (x y : Reg) : Statement (.andReg x y) := familyAndN "AND_Vx__Vy" (f := 0x8) (by decide) rfl _ _ rfl
theorem xorReg (x y : Reg) : Statement (.xorReg x y) := familyAndN "XOR_Vx__Vy" (f := 0x8) (by decide) rfl _ _ rfl
theorem addReg (x y : Reg) : Statement (.addReg x y) := familyAndN "ADD_Vx__Vy" (f := 0x8) (by decide) rfl _ _ rfl
theorem subReg (x y : Reg) : Statement (.subReg x y) := familyAndN "SUB_Vx__Vy" (f := 0x8) (by decide) rfl _ _ rfl
theorem shr (x y : Reg) : Statement (.shr x y) := familyAndN "SHR_Vx__Vy" (f := 0x8) (by decide) rfl _ _ rfl
theorem subnReg (x y : Reg) : Statement (.subnReg x y) := familyAndN "SUBN_Vx__Vy" (f := 0x8) (by decide) rfl _ _ rfl
theorem shl (x y : Reg) : Statement (.shl x y) := familyAndN "SHL_Vx__Vy" (f := 0x8) (by decide) rfl _ _ rfl
theorem sneReg (x y : Reg) : Statement (.sneReg x y) := familyAndN "SNE_Vx__Vy" (f := 0x9) (by decide) rfl _ _ rfl
theorem ldI (nnn : Addr) : Statement (.ldI nnn) :=
  family "LD_I__addr" (f := 0xA) (by decide) rfl _ _ _ (ofAddrForm_eq _ _)
theorem jpV0 (nnn : Addr) : Statement (.jpV0 nnn) :=
  family "JP_V0__addr" (f := 0xB) (by decide) rfl _ _ _ (ofAddrForm_eq _ _)
theorem rnd (x : Reg) (kk : Byte) : Statement (.rnd x kk) :=
  family "RND_Vx__byte" (f := 0xC) (by decide) rfl _ _ _ (ofByteForm_eq _ _ _)
theorem drw (x y : Reg) (n : Nibble) : Statement (.drw x y n) :=
  family "DRW_Vx__Vy__nibble" (f := 0xD) (by decide) rfl _ _ _ rfl
theorem skp (x : Reg) : Statement (.skp x) :=
  familyAndKk "SKP_Vx" (f := 0xE) (c := 0x9) (d := 0xE) (by decide) rfl _ (ofByteForm_eq _ _ _)
theorem sknp (x : Reg) : Statement (.sknp x) :=
  familyAndKk "SKNP_Vx" (f := 0xE) (c := 0xA) (d := 0x1) (by decide) rfl _ (ofByteForm_eq _ _ _)
theorem ldRegDt (x : Reg) : Statement (.ldRegDt x) :=
  familyAndKk "LD_Vx__DT" (f := 0xF) (c := 0x0) (d := 0x7) (by decide) rfl _ (ofByteForm_eq _ _ _)
theorem ldRegKey (x : Reg) : Statement (.ldRegKey x) :=
  familyAndKk "LD_Vx__K" (f := 0xF) (c := 0x0) (d := 0xA) (by decide) rfl _ (ofByteForm_eq _ _ _)
theorem ldDtReg (x : Reg) : Statement (.ldDtReg x) :=
  familyAndKk "LD_DT__Vx" (f := 0xF) (c := 0x1) (d := 0x5) (by decide) rfl _ (ofByteForm_eq _ _ _)
theorem ldStReg (x : Reg) : Statement (.ldStReg x) :=
  familyAndKk "LD_ST__Vx" (f := 0xF) (c := 0x1) (d := 0x8) (by decide) rfl _ (ofByteForm_eq _ _ _)
theorem addI (x : Reg) : Statement (.addI x) :=
  familyAndKk "ADD_I__Vx" (f := 0xF) (c := 0x1) (d := 0xE) (by decide) rfl _ (ofByteForm_eq _ _ _)
theorem ldFont (x : Reg) : Statement (.ldFont x) :=
  familyAndKk "LD_F__Vx" (f := 0xF) (c := 0x2) (d := 0x9) (by decide) rfl _ (ofByteForm_eq _ _ _)
theorem ldBcd (x : Reg) : Statement (.ldBcd x) :=
  familyAndKk "LD_B__Vx" (f := 0xF) (c := 0x3) (d := 0x3) (by decide) rfl _ (ofByteForm_eq _ _ _)
theorem storeRegs (x : Reg) : Statement (.storeRegs x) :=
  familyAndKk "LD__I___Vx" (f := 0xF) (c := 0x5) (d := 0x5) (by decide) rfl _ (ofByteForm_eq _ _ _)
theorem loadRegs (x : Reg) : Statement (.loadRegs x) :=
  familyAndKk "LD_Vx___I" (f := 0xF) (c := 0x6) (d := 0x5) (by decide) rfl _ (ofByteForm_eq _ _ _)

end Sys2Proof.Laws.SelectedByOwnRow
end

