-- ==== Sys2Proof/Laws/Step.lean ====
section
/-! SUPPORT. What a step can do: the one inversion of the fetch and of the step transaction (40_cycle.md
R80), which later proofs cite instead of unfolding the step. -/

namespace Sys2Proof.Machine

/-- The fetch and decode of a state whose next word is an instruction (R81, R82, R83). -/
theorem fetchDecode_ok {s : State} {i : Instr} (hpc : s.pc.toNat + 1 < 0x1000)
    (hi : decodeWord (wordOfBytes (s.byteAt s.pc.toNat) (s.byteAt (s.pc.toNat + 1))) = .ok i) :
    fetchDecode s = .ok (i, s.setPc (s.pc + 2)) := by
  unfold State.byteAt at hi
  rw [fetchDecode, fetchWord_ok s.fontGlyphs s.mem _ hpc]
  simp only [hi]

/-- Everything a fetch and decode that succeeds says (R81, R82, R83). -/
theorem fetchDecode_inv {s s' : State} {i : Instr} (h : fetchDecode s = .ok (i, s')) :
    s.pc.toNat + 1 < 0x1000 ∧
      decodeWord (wordOfBytes (s.byteAt s.pc.toNat) (s.byteAt (s.pc.toNat + 1))) = .ok i ∧
      s' = s.setPc (s.pc + 2) := by
  by_cases hpc : s.pc.toNat + 1 < 0x1000
  · cases hd : decodeWord (wordOfBytes (s.byteAt s.pc.toNat) (s.byteAt (s.pc.toNat + 1))) with
    | ok j =>
      rw [fetchDecode_ok hpc hd, Except.ok.injEq, Prod.mk.injEq] at h
      exact ⟨hpc, by rw [h.1], h.2.symm⟩
    | error e =>
      unfold State.byteAt at hd
      rw [fetchDecode, fetchWord_ok s.fontGlyphs s.mem _ hpc] at h
      simp only [hd] at h
      cases h
  · rw [fetchDecode, fetchWord_error s.fontGlyphs s.mem _ (by omega)] at h
    cases h

/-- Everything a step transaction that answers a next state has done: no fault was latched, the word at
PC was fetched and is an instruction, and the instruction was executed (R80). -/
theorem stepTransaction_next {key : Option Key} {rnd : Byte} {s t : State}
    (h : stepTransaction key rnd s = .next t) :
    s.faultLatch = none ∧ s.pc.toNat + 1 < 0x1000 ∧
      ∃ i, decodeWord (wordOfBytes (s.byteAt s.pc.toNat) (s.byteAt (s.pc.toNat + 1))) = .ok i ∧
        exec i ((s.beginStep key rnd).setPc (s.pc + 2)) = .next t := by
  unfold stepTransaction at h
  split at h
  · cases h
  · rename_i hl
    refine ⟨hl, ?_⟩
    cases hf : fetchDecode (s.beginStep key rnd) with
    | error e => rw [hf] at h; cases h
    | ok r =>
      obtain ⟨i, s'⟩ := r
      rw [hf] at h
      obtain ⟨hpc, hi, rfl⟩ := fetchDecode_inv hf
      exact ⟨hpc, i, hi, h⟩

/-- The step transaction on a machine with no fault latched whose next word is an instruction (R80). -/
theorem stepTransaction_ok {key : Option Key} {rnd : Byte} {s : State} {i : Instr}
    (hl : s.faultLatch = none) (hpc : s.pc.toNat + 1 < 0x1000)
    (hi : decodeWord (wordOfBytes (s.byteAt s.pc.toNat) (s.byteAt (s.pc.toNat + 1))) = .ok i) :
    stepTransaction key rnd s = exec i ((s.beginStep key rnd).setPc (s.pc + 2)) := by
  have hf : fetchDecode (s.beginStep key rnd) = .ok (i, (s.beginStep key rnd).setPc (s.pc + 2)) :=
    fetchDecode_ok (s := s.beginStep key rnd) hpc hi
  simp only [stepTransaction, hl, hf]

/-- The step transaction on a Faulted machine (R84). -/
theorem stepTransaction_latched {key : Option Key} {rnd : Byte} {s : State} {e : Fault}
    (hl : s.faultLatch = some e) : stepTransaction key rnd s = .fault e := by
  simp only [stepTransaction, hl]

/-- A fault never overwrites the latch (60_exceptions.md R177). -/
theorem State.latchFault_latched {s : State} {e : Fault} (hl : s.faultLatch = some e) (e' : Fault) :
    s.latchFault e' = s := by
  simp only [State.latchFault, hl]

/-- Fault entry sets the latch (60_exceptions.md R177). -/
theorem State.latchFault_faultLatch {s : State} (hl : s.faultLatch = none) (e : Fault) :
    (s.latchFault e).faultLatch = some e := by
  simp only [State.latchFault, hl]

/-- Fault entry keeps memory in canonical form. -/
theorem State.latchFault_mem_wf {s : State} (hm : s.mem.wf s.fontGlyphs = true) (e : Fault) :
    (s.latchFault e).mem.wf s.fontGlyphs = true := by
  unfold State.latchFault
  split
  · exact hm
  · exact Memory.ofBytes_wfFrom _ _ (le_refl _)

end Sys2Proof.Machine
end

