-- ==== Sys2Proof/Tests/Slice0.lean ====
section
/-! SUPPORT. The model's own tests: the checks of WellFormed on ill-formed terms, the words of
30_encoding.md R64 written out and decoded, one or two steps' results for each instruction, and for each
statement with hypotheses a witness that meets them. Expected results are those of 95_test_vectors.md,
whose numbers stand in the comments, or are worked out by hand from the rule named. -/

namespace Sys2Proof.Tests

open Sys2Proof.Machine

-- one theorem at a time: a thread for each of the many small kernel evaluations would exhaust memory
set_option Elab.async false

/-! ## Helpers -/

/-- The reset state with one host turn: no tick due, no key, the random byte 0xA7. -/
def base : State := { State.reset with hostQueue := [⟨0, none, 0xA7⟩] }

/-- `base` with some general registers set. -/
def regs (l : List (Reg × Byte)) : State := l.foldl (fun s p => s.setV p.1 p.2) base

/-- A state with some bytes of memory from an address on. -/
def store (a : Nat) (bs : List Byte) (s : State) : State := s.setMem (s.mem.writeAll s.fontGlyphs a bs)

/-- A state with some pixels on. -/
def lit (ps : List Pixel) (s : State) : State :=
  { s with vid := ps.foldl (fun v p => v.set p.val true) s.vid }

/-- A state whose host gives a key in the next step. -/
def pressing (k : Key) (s : State) : State := { s with hostQueue := [⟨0, some k, 0x00⟩] }

/-- One step with a word at PC. -/
def run (w : Word) (s : State) : Outcome := step (s.placeWord w)

/-- The outcome is a next state that meets a test. -/
def gives (o : Outcome) (p : State → Bool) : Bool :=
  match o with
  | .next t => p t
  | .fault _ => false
  | .refused _ => false

/-- The outcome is a given fault. -/
def faults (o : Outcome) (e : Fault) : Bool :=
  match o with
  | .next _ => false
  | .fault e' => e' == e
  | .refused _ => false

/-- Some pixels are on and some others are off. -/
def shows (on off : List Pixel) (s : State) : Bool :=
  (on.all fun p => s.vid[p.val]) && off.all fun p => !s.vid[p.val]

/-- The instruction a word decodes to. -/
def decoded (w : Word) : Option Instr :=
  match decodeWord w with
  | .ok i => some i
  | .error _ => none

/-- The instruction at PC is `i` and a step transaction completes. -/
def completes (key : Option Key) (i : Instr) (s : State) : Bool :=
  (match fetchWord s.fontGlyphs s.mem s.pc.toNat with
    | .ok w => w == encode i
    | .error _ => false) &&
  gives (stepTransaction key 0x00 s) fun _ => true

/-- `exec` of an instruction completes. -/
def executes (i : Instr) (s : State) : Bool :=
  gives (exec i s) fun _ => true

/-- What `completes` says. -/
theorem completes_spec {key : Option Key} {i : Instr} {s : State} (h : completes key i s = true) :
    fetchWord s.fontGlyphs s.mem s.pc.toNat = .ok (encode i) ∧ ∃ t, stepTransaction key 0x00 s = .next t := by
  unfold completes gives at h
  rw [Bool.and_eq_true] at h
  constructor
  · revert h
    cases fetchWord s.fontGlyphs s.mem s.pc.toNat <;> simp
    tauto
  · revert h
    cases stepTransaction key 0x00 s <;> simp

/-- What `executes` says. -/
theorem executes_spec {i : Instr} {s : State} (h : executes i s = true) : ∃ t, exec i s = .next t := by
  unfold executes gives at h
  revert h
  cases exec i s <;> simp

/-- What `gives` says. -/
theorem gives_spec {o : Outcome} {p : State → Bool} (h : gives o p = true) :
    ∃ t, o = .next t ∧ p t = true := by
  unfold gives at h
  revert h
  cases o <;> simp

/-- What `faults` says. -/
theorem faults_spec {o : Outcome} {e : Fault} (h : faults o e = true) : o = .fault e := by
  unfold faults at h
  revert h
  cases o <;> simp

/-! ## WellFormed refuses an ill-formed term of each kind (R66, R205) -/

/-- One word of each of the six illegal spaces of R66, and both neighbours of the 0 family's words. -/
theorem test_wellFormedWord_refuses :
    wellFormedWord 0x0000 = false ∧ wellFormedWord 0x00E1 = false ∧ wellFormedWord 0x00ED = false ∧
    wellFormedWord 0x01E0 = false ∧ wellFormedWord 0x5001 = false ∧ wellFormedWord 0x8008 = false ∧
    wellFormedWord 0x800F = false ∧ wellFormedWord 0x9011 = false ∧ wellFormedWord 0xE09F = false ∧
    wellFormedWord 0xF0FF = false := by
  decide

theorem test_wellFormedWord_accepts :
    wellFormedWord 0x00E0 = true ∧ wellFormedWord 0x1FFF = true ∧ wellFormedWord 0x8FFE = true ∧
    wellFormedWord 0xEFA1 = true ∧ wellFormedWord 0xFF65 = true := by
  decide

/-- TL1, TL2: 3584 bytes fit, 3585 do not. -/
theorem test_wellFormedRom :
    wellFormedRom (List.replicate 3584 0x11) = true ∧
      wellFormedRom (List.replicate 3585 0x11) = false := by
  exact ⟨(wellFormedRom_iff _).2 (by rw [List.length_replicate]),
    Bool.eq_false_iff.2 fun h => absurd ((wellFormedRom_iff _).1 h) (by rw [List.length_replicate]; omega)⟩

/-! ## Decoding: every row of R64, its word written out -/

theorem test_decode_families_0_to_7 :
    decoded 0x00E0 = some .cls ∧ decoded 0x00EE = some .ret ∧ decoded 0x1ABC = some (.jp 0xABC) ∧
    decoded 0x2ABC = some (.call 0xABC) ∧ decoded 0x3A5B = some (.seByte 0xA 0x5B) ∧
    decoded 0x4A5B = some (.sneByte 0xA 0x5B) ∧ decoded 0x5AB0 = some (.seReg 0xA 0xB) ∧
    decoded 0x6A5B = some (.ldByte 0xA 0x5B) ∧ decoded 0x7A5B = some (.addByte 0xA 0x5B) := by
  decide

theorem test_decode_families_8_and_9 :
    decoded 0x8AB0 = some (.ldReg 0xA 0xB) ∧ decoded 0x8AB1 = some (.orReg 0xA 0xB) ∧
    decoded 0x8AB2 = some (.andReg 0xA 0xB) ∧ decoded 0x8AB3 = some (.xorReg 0xA 0xB) ∧
    decoded 0x8AB4 = some (.addReg 0xA 0xB) ∧ decoded 0x8AB5 = some (.subReg 0xA 0xB) ∧
    decoded 0x8AB6 = some (.shr 0xA 0xB) ∧ decoded 0x8AB7 = some (.subnReg 0xA 0xB) ∧
    decoded 0x8ABE = some (.shl 0xA 0xB) ∧ decoded 0x9AB0 = some (.sneReg 0xA 0xB) := by
  decide

theorem test_decode_families_A_to_F :
    decoded 0xAABC = some (.ldI 0xABC) ∧ decoded 0xBABC = some (.jpV0 0xABC) ∧
    decoded 0xCA5B = some (.rnd 0xA 0x5B) ∧ decoded 0xDAB5 = some (.drw 0xA 0xB 5) ∧
    decoded 0xEA9E = some (.skp 0xA) ∧ decoded 0xEAA1 = some (.sknp 0xA) ∧
    decoded 0xFA07 = some (.ldRegDt 0xA) ∧ decoded 0xFA0A = some (.ldRegKey 0xA) ∧
    decoded 0xFA15 = some (.ldDtReg 0xA) ∧ decoded 0xFA18 = some (.ldStReg 0xA) ∧
    decoded 0xFA1E = some (.addI 0xA) ∧ decoded 0xFA29 = some (.ldFont 0xA) ∧
    decoded 0xFA33 = some (.ldBcd 0xA) ∧ decoded 0xFA55 = some (.storeRegs 0xA) ∧
    decoded 0xFA65 = some (.loadRegs 0xA) := by
  decide

/-- TF2, TF7 to TF11, S15: one word of each illegal space is refused. -/
theorem test_decode_illegal :
    decoded 0xFFFF = none ∧ decoded 0x0000 = none ∧ decoded 0x01E0 = none ∧ decoded 0x8008 = none ∧
    decoded 0xE09F = none ∧ decoded 0xF0FF = none ∧ decoded 0x9011 = none ∧ decoded 0x5001 = none := by
  decide

/-- S1. -/
theorem test_fields : fields 0x1234 = ⟨0x1, 0x2, 0x3, 0x4, 0x34, 0x234⟩ := by
  decide

/-- The table's numbering: bit 0 is the word's least significant bit. -/
theorem test_decodeTableWord :
    decodeTableWord 16 0xA2F0 = some (.ldI 0x2F0) ∧ decodeTableWord 16 0x5001 = none := by
  decide

/-- A word placed at the next fetch runs as the first instruction after reset. -/
theorem test_withFetchWord : gives (step (State.reset.withFetchWord 16 0xA2F0)) (fun t => t.i == 0x2F0) := by
  decide +kernel

/-! ## The step (95_test_vectors.md 2.1) -/

/-- TF1, TF3, TF6. -/
theorem test_fetch :
    gives (run 0xA2F0 base) (fun t => t.i == 0x02F0 && t.pc == 0x0202) = true ∧
    gives (run 0x6001 (base.setPc 0x0FFE)) (fun t => t.getV 0 == 0x01 && t.pc == 0x1000) = true ∧
    gives (run 0x6007 (base.setPc 0x0201)) (fun t => t.getV 0 == 0x07 && t.pc == 0x0203) = true := by
  decide +kernel

/-- TF4, TF5, TF7, TF8, S15, TL3. -/
theorem test_fetch_faults :
    faults (step (base.setPc 0x1000)) (.outOfBounds 0x1000) = true ∧
    faults (step (base.setPc 0x0FFF)) (.outOfBounds 0x1000) = true ∧
    faults (run 0x01E0 base) (.unknownOpcode 0x01E0 0x0200) = true ∧
    faults (run 0x9011 base) (.unknownOpcode 0x9011 0x0200) = true ∧
    faults (step base) (.unknownOpcode 0x0000 0x0200) = true := by
  decide +kernel

/-- TF12, TF13. -/
theorem test_latch_and_flags :
    faults (stepTransaction none 0 { base with faultLatch := some .stackOverflow }) .stackOverflow = true ∧
    gives (run 0x6000 { base with draw := true }) (fun t => !t.draw && !t.clear) = true := by
  decide +kernel

/-- TT1, TT2, TT3. -/
theorem test_tick :
    tickByte 1 = 0 ∧ tickByte 0 = 0 ∧ tickByte 0xFF = 0xFE ∧ tickByte 2 = 1 ∧ countDown 2 0xFF = 0xFD := by
  decide

/-- A tick due before the step is served before it (R186): Fx07 reads 0x2B where DT was 0x2C. -/
theorem test_tick_before_step :
    gives (run 0xF307 { base with dt := 0x2C, hostQueue := [⟨1, none, 0⟩] })
      (fun t => t.getV 3 == 0x2B && t.hostQueue == []) = true := by
  decide +kernel

/-- S12 and TL4: the first and the last font byte, and the byte after the font. -/
theorem test_font : State.reset.byteAt 0 = 0xF0 ∧ State.reset.byteAt 79 = 0x80 ∧
    State.reset.byteAt 80 = 0x00 := by
  decide +kernel

/-- Another FONT_GLYPHS stands at 0x000 after `Reset`, and Fx65 reads it (R5, R201). -/
theorem test_font_argument :
    gives (run 0xF065 { State.resetWith (Vector.replicate 80 0xAB) with hostQueue := base.hostQueue })
      (fun t => t.getV 0 == 0xAB && (transact .reset t).1.byteAt 79 == 0xAB) = true := by
  decide +kernel

/-! ## Display -/

/-- TD1. -/
theorem test_cls :
    gives (run 0x00E0 { base with vid := Vector.replicate 2048 true })
      (fun t => shows [] [0, 131, 2047] t && t.clear && !t.draw) = true := by
  decide +kernel

/-- TD2. -/
theorem test_drw :
    gives (run 0xD011 (store 0x300 [0xC0] ((regs [(0, 3), (1, 2)]).setI 0x300)))
      (fun t => shows [131, 132] [67, 130, 133, 195] t && t.getV 0xF == 0 && t.draw) = true := by
  decide +kernel

/-- TD3. -/
theorem test_drw_collision :
    gives (run 0xD011 (lit [131, 132] (store 0x300 [0xC0] ((regs [(0, 3), (1, 2)]).setI 0x300))))
      (fun t => shows [] [130, 131, 132, 133] t && t.getV 0xF == 1) = true := by
  decide +kernel

/-- TD7, TD8: where the 1 bits of a row land at the right edge. -/
theorem test_spritePixels_rightEdge :
    spritePixels .wrap 62 0 0 [0xFF] = [62, 63, 0, 1, 2, 3, 4, 5] ∧
    spritePixels .clip 62 0 0 [0xFF] = [62, 63] := by
  decide +kernel

/-- TD9, TD10, TD11: the same at the bottom edge, and a start beyond both edges. -/
theorem test_spritePixels_bottomEdge :
    spritePixels .wrap 0 31 0 [0x80, 0x80] = [1984, 0] ∧
    spritePixels .clip 0 31 0 [0x80, 0x80] = [1984] ∧
    spritePixels .wrap 64 32 0 [0x80] = [0] ∧ spritePixels .clip 64 32 0 [0x80] = [0] := by
  decide +kernel

/-! ## Control flow -/

/-- TC2, TC3. -/
theorem test_ret :
    gives (run 0x00EE { base with stack := base.stack.set 0 0x0206, sp := 1 })
      (fun t => t.pc == 0x0206 && t.sp == 0) = true ∧
    faults (run 0x00EE base) .stackUnderflow = true := by
  decide +kernel

/-- S10, TC13. -/
theorem test_jp :
    gives (run 0x1300 base) (fun t => t.pc == 0x0300) = true ∧
    gives (run 0x1201 base) (fun t => t.pc == 0x0201) = true := by
  decide +kernel

/-- TC5. -/
theorem test_call :
    gives (run 0x2300 { base with sp := 15 })
      (fun t => t.stack[15] == 0x0202 && t.sp == 16 && t.pc == 0x0300) = true := by
  decide +kernel

/-- TC4, TC14. -/
theorem test_call_edges :
    faults (run 0x2300 { base with sp := 16 }) .stackOverflow = true ∧
    gives (run 0x2200 (base.setPc 0x0FFE)) (fun t => t.stack[0] == 0x1000 && t.pc == 0x0200) = true := by
  decide +kernel

/-- S11. -/
theorem test_seByte :
    gives (run 0x3012 (regs [(0, 0x12)])) (fun t => t.pc == 0x0204) = true ∧
    gives (run 0x3013 (regs [(0, 0x12)])) (fun t => t.pc == 0x0202) = true := by
  decide +kernel

/-- TC6. -/
theorem test_sneByte :
    gives (run 0x4342 (regs [(3, 0x42)])) (fun t => t.pc == 0x0202) = true ∧
    gives (run 0x4341 (regs [(3, 0x42)])) (fun t => t.pc == 0x0204) = true := by
  decide +kernel

/-- TC7, TC8. -/
theorem test_seReg :
    gives (run 0x5120 (regs [(1, 9), (2, 9)])) (fun t => t.pc == 0x0204) = true ∧
    gives (run 0x5120 (regs [(1, 9), (2, 8)])) (fun t => t.pc == 0x0202) = true := by
  decide +kernel

/-- TC7, TC8. -/
theorem test_sneReg :
    gives (run 0x9120 (regs [(1, 9), (2, 9)])) (fun t => t.pc == 0x0202) = true ∧
    gives (run 0x9120 (regs [(1, 9), (2, 8)])) (fun t => t.pc == 0x0204) = true := by
  decide +kernel

/-- TC10, TC11. -/
theorem test_jpV0 :
    gives (run 0xB300 (regs [(0, 0x10)])) (fun t => t.pc == 0x0310) = true ∧
    gives (run 0xBFFF (regs [(0, 0xFF)])) (fun t => t.pc == 0x10FE) = true := by
  decide +kernel

/-! ## Registers and ALU -/

/-- TA1. -/
theorem test_ldByte : gives (run 0x6A5B base) (fun t => t.getV 0xA == 0x5B) = true := by
  decide +kernel

/-- TA2, TA3. -/
theorem test_addByte :
    gives (run 0x7001 (regs [(0, 0xFF), (0xF, 0x55)]))
      (fun t => t.getV 0 == 0x00 && t.getV 0xF == 0x55) = true ∧
    gives (run 0x7F01 (regs [(0xF, 0xFF)])) (fun t => t.getV 0xF == 0x00) = true := by
  decide +kernel

/-- TA4. -/
theorem test_ldReg : gives (run 0x8010 (regs [(1, 0x2A)])) (fun t => t.getV 0 == 0x2A) = true := by
  decide +kernel

/-- TA5. -/
theorem test_orReg :
    gives (run 0x8011 (regs [(0, 0xF0), (1, 0x0F), (0xF, 0x07)]))
      (fun t => t.getV 0 == 0xFF && t.getV 0xF == 0x07) = true := by
  decide +kernel

/-- TA6. -/
theorem test_andReg :
    gives (run 0x8012 (regs [(0, 0xF0), (1, 0x3C)])) (fun t => t.getV 0 == 0x30) = true := by
  decide +kernel

/-- TA6, TA7. -/
theorem test_xorReg :
    gives (run 0x8013 (regs [(0, 0xF0), (1, 0x3C)])) (fun t => t.getV 0 == 0xCC) = true ∧
    gives (run 0x8223 (regs [(2, 0x5A)])) (fun t => t.getV 2 == 0x00) = true := by
  decide +kernel

/-- S2, S3. -/
theorem test_addReg :
    gives (run 0x8014 (regs [(0, 0xFF), (1, 0x01)]))
      (fun t => t.getV 0 == 0x00 && t.getV 0xF == 1) = true ∧
    gives (run 0x8014 (regs [(0, 0x01), (1, 0x01)]))
      (fun t => t.getV 0 == 0x02 && t.getV 0xF == 0) = true := by
  decide +kernel

/-- TA9, TA10, TA11. -/
theorem test_addReg_aliases :
    gives (run 0x8F14 (regs [(0xF, 0xFF), (1, 0x01)])) (fun t => t.getV 0xF == 0x01) = true ∧
    gives (run 0x80F4 (regs [(0, 0x10), (0xF, 0x01)]))
      (fun t => t.getV 0 == 0x11 && t.getV 0xF == 0) = true ∧
    gives (run 0x8224 (regs [(2, 0x81)])) (fun t => t.getV 2 == 0x02 && t.getV 0xF == 1) = true := by
  decide +kernel

/-- S4, S5. -/
theorem test_subReg :
    gives (run 0x8015 (regs [(0, 0x05), (1, 0x0A)]))
      (fun t => t.getV 0 == 0xFB && t.getV 0xF == 0) = true ∧
    gives (run 0x8015 (regs [(0, 0x0A), (1, 0x05)]))
      (fun t => t.getV 0 == 0x05 && t.getV 0xF == 1) = true := by
  decide +kernel

/-- TA12, TA14. -/
theorem test_subReg_equal :
    gives (run 0x8015 (regs [(0, 0x42), (1, 0x42)]))
      (fun t => t.getV 0 == 0x00 && t.getV 0xF == 0) = true ∧
    gives (run 0x8F15 (regs [(0xF, 0x10), (1, 0x01)])) (fun t => t.getV 0xF == 0x01) = true := by
  decide +kernel

/-- S6, TA20. -/
theorem test_shr :
    gives (run 0x8006 (regs [(0, 0x03)])) (fun t => t.getV 0 == 0x01 && t.getV 0xF == 1) = true ∧
    gives (run 0x8F06 (regs [(0xF, 0x02)])) (fun t => t.getV 0xF == 0x00) = true := by
  decide +kernel

/-- TA18. -/
theorem test_shr_ignores_y :
    gives (run 0x8016 (regs [(0, 0xFF), (1, 0x00)]))
      (fun t => t.getV 0 == 0x7F && t.getV 0xF == 1) = true := by
  decide +kernel

/-- TA15, TA17. -/
theorem test_subnReg :
    gives (run 0x8017 (regs [(0, 0x01), (1, 0x00)]))
      (fun t => t.getV 0 == 0xFF && t.getV 0xF == 0) = true ∧
    gives (run 0x8017 (regs [(0, 0x05), (1, 0x0A)]))
      (fun t => t.getV 0 == 0x05 && t.getV 0xF == 1) = true := by
  decide +kernel

/-- S7, TA22, TA23. -/
theorem test_shl :
    gives (run 0x800E (regs [(0, 0x81)])) (fun t => t.getV 0 == 0x02 && t.getV 0xF == 1) = true ∧
    gives (run 0x800E (regs [(0, 0x40)])) (fun t => t.getV 0 == 0x80 && t.getV 0xF == 0) = true ∧
    gives (run 0x8F0E (regs [(0xF, 0x81)])) (fun t => t.getV 0xF == 0x01) = true := by
  decide +kernel

/-- TA24, TA25. -/
theorem test_rnd :
    gives (run 0xC30F base) (fun t => t.getV 3 == 0x07) = true ∧
    gives (run 0xC300 (regs [(3, 0x55)])) (fun t => t.getV 3 == 0x00) = true := by
  decide +kernel

/-! ## Index register and memory -/

/-- TM1. -/
theorem test_ldI : gives (run 0xAFFF base) (fun t => t.i == 0x0FFF) = true := by
  decide +kernel

/-- TM2, TM4. -/
theorem test_addI :
    gives (run 0xF21E ((regs [(2, 0x10), (0xF, 0x09)]).setI 0x0300))
      (fun t => t.i == 0x0310 && t.getV 0xF == 0x09) = true ∧
    gives (run 0xF01E ((regs [(0, 0x02)]).setI 0xFFFF)) (fun t => t.i == 0x0001) = true := by
  decide +kernel

/-- TM5. -/
theorem test_ldFont :
    gives (run 0xF029 (regs [(0, 0x0F)])) (fun t => t.i == 0x004B) = true ∧
    gives (run 0xF029 (regs [(0, 0xFF)])) (fun t => t.i == 0x04FB) = true := by
  decide +kernel

/-- S13, TM6. -/
theorem test_ldBcd :
    gives (run 0xF033 ((regs [(0, 156)]).setI 0x300))
      (fun t => t.byteAt 0x300 == 1 && t.byteAt 0x301 == 5 && t.byteAt 0x302 == 6) = true ∧
    gives (run 0xF033 ((regs [(0, 255)]).setI 0x300))
      (fun t => t.byteAt 0x300 == 2 && t.byteAt 0x301 == 5 && t.byteAt 0x302 == 5) = true := by
  decide +kernel

/-- TM7. -/
theorem test_ldBcd_end :
    faults (run 0xF033 ((regs [(0, 123)]).setI 0x0FFE)) (.outOfBounds 0x1000) = true := by
  decide +kernel

/-- TM8, TM14. -/
theorem test_storeRegs :
    gives (run 0xF255 ((regs [(0, 1), (1, 2), (2, 3), (3, 4)]).setI 0x300))
      (fun t => t.byteAt 0x300 == 1 && t.byteAt 0x301 == 2 && t.byteAt 0x302 == 3 &&
        t.byteAt 0x303 == 0 && t.i == 0x0300) = true ∧
    gives (run 0xF055 (regs [(0, 0xAA)])) (fun t => t.byteAt 0 == 0xAA) = true := by
  decide +kernel

/-- TM10. -/
theorem test_storeRegs_end : faults (run 0xF155 (base.setI 0x0FFF)) (.outOfBounds 0x1000) = true := by
  decide +kernel

/-- TM11, TM12. -/
theorem test_loadRegs :
    gives (run 0xF265 (store 0x300 [1, 5, 6, 7] (base.setI 0x300)))
      (fun t => t.getV 0 == 1 && t.getV 1 == 5 && t.getV 2 == 6 && t.getV 3 == 0 &&
        t.i == 0x0300) = true ∧
    gives (run 0xF065 (store 0xFFF [0x7E] (base.setI 0x0FFF))) (fun t => t.getV 0 == 0x7E) = true := by
  decide +kernel

/-- TM13. -/
theorem test_loadRegs_end : faults (run 0xF065 (base.setI 0x1000)) (.outOfBounds 0x1000) = true := by
  decide +kernel

/-! ## Keypad and timers -/

/-- TK1, TK3. -/
theorem test_skp :
    gives (run 0xE19E (pressing 5 (regs [(1, 5)]))) (fun t => t.pc == 0x0204) = true ∧
    gives (run 0xE19E (pressing 4 (regs [(1, 5)]))) (fun t => t.pc == 0x0202) = true ∧
    gives (run 0xE19E (pressing 0 (regs [(1, 0x10)]))) (fun t => t.pc == 0x0202) = true := by
  decide +kernel

/-- TK2, TK3. -/
theorem test_sknp :
    gives (run 0xE1A1 (pressing 5 (regs [(1, 5)]))) (fun t => t.pc == 0x0202) = true ∧
    gives (run 0xE1A1 (regs [(1, 5)])) (fun t => t.pc == 0x0204) = true ∧
    gives (run 0xE1A1 (pressing 0 (regs [(1, 0x10)]))) (fun t => t.pc == 0x0204) = true := by
  decide +kernel

/-- TK4. -/
theorem test_ldRegDt :
    gives (run 0xF307 { base with dt := 0x2C }) (fun t => t.getV 3 == 0x2C) = true := by
  decide +kernel

/-- TK5, TK6. -/
theorem test_ldRegKey :
    gives (run 0xF00A ((regs [(0, 0x33)]).setPc 0x20A))
      (fun t => t.pc == 0x020A && t.getV 0 == 0x33) = true ∧
    gives (run 0xF00A (pressing 0xF (base.setPc 0x20A)))
      (fun t => t.pc == 0x020C && t.getV 0 == 0x0F) = true := by
  decide +kernel

/-- TK7. -/
theorem test_ldDtReg :
    gives (run 0xF215 (regs [(2, 0x3C)])) (fun t => t.dt == 0x3C && t.st == 0) = true := by
  decide +kernel

/-- TK8. -/
theorem test_ldStReg :
    gives (run 0xF218 (regs [(2, 0x10)])) (fun t => t.st == 0x10 && t.dt == 0) = true := by
  decide +kernel

/-! ## Witnesses: for each statement with hypotheses, states and operands that meet them -/

theorem witness_EncodeOfDecodeIsTheWord : decodeWord 0xDFFF = .ok (.drw 0xF 0xF 0xF) := by
  rfl

/-- A word that a row selects, one that decodes, one that no row selects. -/
theorem witness_DecoderIsTheOpcodeMap :
    (∃ row ∈ opcodeRows, (0xFF65 : Word) &&& row.mask = row.pattern) ∧
    decodeWord 0xF065 = .ok (.loadRegs 0) ∧
      ∀ row ∈ opcodeRows, (0x5FF1 : Word) &&& row.mask ≠ row.pattern := by
  exact ⟨by decide, rfl, by decide⟩

/-- One word of each of the six clauses, at an end of its range. -/
theorem witness_IllegalWordsAreTheSixSpaces :
    decodeWord 0x0FFF = .error (.unknownOpcode 0x0FFF) ∧
    decodeWord 0x5FF1 = .error (.unknownOpcode 0x5FF1) ∧
    decodeWord 0x8FFF = .error (.unknownOpcode 0x8FFF) ∧
    decodeWord 0x900F = .error (.unknownOpcode 0x900F) ∧
    decodeWord 0xEFFF = .error (.unknownOpcode 0xEFFF) ∧
    decodeWord 0xFFFF = .error (.unknownOpcode 0xFFFF) := by
  exact ⟨rfl, rfl, rfl, rfl, rfl, rfl⟩

theorem witness_StepTransactionFollowsTheCycle :
    ({ base with faultLatch := some .stackOverflow }).faultLatch = some .stackOverflow ∧
    (base.faultLatch = none ∧ fetchWord base.fontGlyphs base.mem 0x0FFF = .error (.outOfBounds 0x1000) ∧
      fetchWord base.fontGlyphs base.mem 0x0200 = .ok 0x0000 ∧
      decodeWord 0x0000 = .error (.unknownOpcode 0x0000)) ∧
    (fetchWord base.fontGlyphs (base.placeWord 0x6001).mem 0x0200 = .ok 0x6001 ∧
      decodeWord 0x6001 = .ok (.ldByte 0 1)) := by
  exact ⟨rfl, ⟨rfl, rfl, rfl, rfl⟩, rfl, rfl⟩

/-- At the last address that a fetch succeeds at. -/
theorem witness_StepRunsTheDecodedInstruction :
    let s := (base.setPc 0x0FFE).placeWord 0x6001
    s.faultLatch = none ∧ s.pc.toNat + 1 < 0x1000 ∧
      decodeBytes [s.byteAt s.pc.toNat, s.byteAt (s.pc.toNat + 1)] = .ok (.ldByte 0 1, []) := by
  exact ⟨rfl, by decide, rfl⟩

/-- Each clause at an end of its range. -/
theorem witness_FetchIsBigEndianAndBoundsChecked :
    (base.setPc 0x0FFE).pc.toNat ≤ 0x0FFE ∧
    ((base.setPc 0x0FFF).pc.toNat = 0x0FFF ∧ (base.setPc 0x0FFF).faultLatch = none) ∧
    ((base.setPc 0x1000).pc.toNat ≥ 0x1000 ∧ (base.setPc 0x1000).faultLatch = none) := by
  decide +kernel

theorem witness_IllegalWordFaultsWithItsAddress :
    base.faultLatch = none ∧ fetchWord base.fontGlyphs base.mem base.pc.toNat = .ok 0x0000 ∧
      ∀ row ∈ opcodeRows, (0x0000 : Word) &&& row.mask ≠ row.pattern := by
  exact ⟨rfl, rfl, by decide⟩

/-- Every arm of the match, each skip and the key wait both ways (`completes_spec` says that these meet the
hypotheses). -/
theorem witness_PcAfterEachInstruction :
    completes none (.jp 0xFFF) (base.placeWord 0x1FFF) = true ∧
    completes none (.call 0x300) (base.placeWord 0x2300) = true ∧
    completes none (.jpV0 0xFFF) ((regs [(0, 0xFF)]).placeWord 0xBFFF) = true ∧
    completes none .ret ({ base with sp := 16 }.placeWord 0x00EE) = true ∧
    completes none (.seByte 0 0x12) ((regs [(0, 0x12)]).placeWord 0x3012) = true ∧
    completes none (.seByte 0 0x13) ((regs [(0, 0x12)]).placeWord 0x3013) = true ∧
    completes none (.sneByte 0 0x12) ((regs [(0, 0x12)]).placeWord 0x4012) = true ∧
    completes none (.sneByte 0 0x13) ((regs [(0, 0x12)]).placeWord 0x4013) = true ∧
    completes none (.seReg 0 1) ((regs [(0, 0x12)]).placeWord 0x5010) = true ∧
    completes none (.seReg 1 2) ((regs [(0, 0x12)]).placeWord 0x5120) = true ∧
    completes none (.sneReg 0 1) ((regs [(0, 0x12)]).placeWord 0x9010) = true ∧
    completes none (.sneReg 1 2) ((regs [(0, 0x12)]).placeWord 0x9120) = true ∧
    completes (some 5) (.skp 1) ((regs [(1, 5)]).placeWord 0xE19E) = true ∧
    completes none (.skp 1) ((regs [(1, 5)]).placeWord 0xE19E) = true ∧
    completes (some 5) (.sknp 1) ((regs [(1, 5)]).placeWord 0xE1A1) = true ∧
    completes none (.sknp 1) ((regs [(1, 5)]).placeWord 0xE1A1) = true ∧
    completes none (.ldRegKey 0) (base.placeWord 0xF00A) = true ∧
    completes (some 5) (.ldRegKey 0) (base.placeWord 0xF00A) = true ∧
    completes none (.ldByte 0 1) ((base.setPc 0x0FFE).placeWord 0x6001) = true := by
  decide +kernel

/-- A step that raises `clear`, one that raises `draw`, one that raises neither. -/
theorem witness_OutputFlagsAreTheStepsOwn :
    (∃ t, run 0x00E0 base = .next t) ∧ (∃ t, run 0xD005 base = .next t) ∧
      ∃ t, run 0x6001 { base with draw := true } = .next t := by
  refine ⟨?_, ?_, ?_⟩ <;> exact (gives_spec (p := fun _ => true) (by decide +kernel)).imp fun _ h => h.1

theorem witness_CompletedStepLeavesNoFault : ∃ t, run 0x6001 base = .next t :=
  (gives_spec (p := fun _ => true) (by decide +kernel)).imp fun _ h => h.1

/-- For the three clauses: an instruction that reads neither key, nor random byte, nor ST, and one for each
that reads another of them. -/
theorem witness_InputsReadOnlyByTheirInstructions :
    (∃ t, exec (.addByte 0 1) base = .next t) ∧ (∃ t, exec (.rnd 0 1) base = .next t) ∧
    (∃ t, exec (.ldRegKey 0) base = .next t) ∧ (∃ t, exec (.ldStReg 0) base = .next t) := by
  exact ⟨⟨_, rfl⟩, ⟨_, rfl⟩, ⟨_, rfl⟩, ⟨_, rfl⟩⟩

/-- Both disjuncts of the hypothesis: a `Reset` of a Faulted machine, and the state right after reset. -/
theorem witness_ResetLeavesTheSourcesValues :
    (∃ s r : State, s.faultLatch = some .stackOverflow ∧ r = (transact .reset s).1) ∧
      ∃ font, State.reset = State.resetWith font :=
  ⟨⟨{ base with faultLatch := some .stackOverflow }, _, rfl, rfl⟩, _, rfl⟩

/-- The same hypothesis, with another font than the default. -/
theorem witness_ResetLeavesZerosElsewhere :
    (∃ s r : State, s.faultLatch = some .stackOverflow ∧ r = (transact .reset s).1) ∧
      ∃ r font, font ≠ Config.defaultFontGlyphs ∧ r = State.resetWith font :=
  ⟨⟨{ base with faultLatch := some .stackOverflow }, _, rfl, rfl⟩, _, Vector.replicate 80 0x00,
    by decide +kernel, rfl⟩

/-- The longest ROM and the shortest that is too long. -/
theorem witness_LoadRomCopiesOrRejects :
    State.reset.mem.wf State.reset.fontGlyphs = true ∧ State.reset.bootPhase = .awaitingRom ∧
      (List.replicate 0xE00 (0x11 : Byte)).length ≤ 0xE00 ∧
      (List.replicate 0xE01 (0x11 : Byte)).length > 0xE00 := by
  exact ⟨rfl, rfl, by rw [List.length_replicate], by rw [List.length_replicate]; omega⟩

theorem witness_NoRomAfterTheFirstStep :
    base.faultLatch = none ∧ Transaction.reset ∉ [Transaction.tick, .step none 0, .readVideo] ∧
      ∃ u, u = transactAll (.step none 0 :: [.tick, .step none 0, .readVideo]) base := by
  exact ⟨rfl, by decide, _, rfl⟩

/-- A timer at 0 and one at 1, and a Faulted machine. -/
theorem witness_TickCountsDownToZero :
    ({ base with st := 1 }).faultLatch = none ∧
      ({ base with faultLatch := some .stackOverflow }).faultLatch = some .stackOverflow := by
  exact ⟨rfl, rfl⟩

theorem witness_FaultIsLatchedAndReturned :
    base.faultLatch = none ∧
      stepTransaction none 0x00 base = .fault (.unknownOpcode 0x0000 0x0200) := by
  exact ⟨rfl, faults_spec (by decide +kernel)⟩

theorem witness_OnlyResetLeavesFaulted :
    ({ base with faultLatch := some .stackOverflow }).faultLatch = some .stackOverflow ∧
      Transaction.reset ∉ [Transaction.step none 0, .tick, .loadRom [], .readVideo] := by
  exact ⟨rfl, by decide⟩

/-- A step that completes and one that faults, each after two ticks. -/
theorem witness_StepIsTheTurnsTransactions :
    (∃ t, run 0xF307 { base with dt := 1, hostQueue := [⟨2, none, 0⟩] } = .next t) ∧
      run 0x0000 { base with dt := 1, hostQueue := [⟨2, none, 0⟩] } =
        .fault (.unknownOpcode 0x0000 0x0200) := by
  exact ⟨(gives_spec (p := fun _ => true) (by decide +kernel)).imp fun _ h => h.1,
    faults_spec (by decide +kernel)⟩

/-- Each fault of an instruction occurs. -/
theorem witness_FaultsAreThoseOfTheTaxonomy :
    exec (.call 0x300) { base with sp := 16 } = .fault .stackOverflow ∧
    exec .ret base = .fault .stackUnderflow ∧
    exec (.drw 0 0 1) (base.setI 0x1000) = .fault (.outOfBounds 0x1000) := by
  exact ⟨rfl, rfl, rfl⟩

/-- Each clause at the first address that is too high. -/
theorem witness_DataAccessFaultsAtItsFirstByte :
    ((2 : Nibble).toNat ≠ 0 ∧ (base.setI 0x0FFF).i.toNat + (2 : Nibble).toNat > 0x1000) ∧
    (base.setI 0x0FFE).i.toNat + 3 > 0x1000 ∧
    (base.setI 0x0FFF).i.toNat + (1 : Reg).toNat + 1 > 0x1000 ∧
    (base.setI 0x1000).i.toNat + (0 : Reg).toNat + 1 > 0x1000 := by
  decide +kernel

theorem base_inv : base.Inv :=
  ⟨rfl, by decide, fun j h => by simp [base, State.reset, State.resetWith]⟩

/-- A step that leaves PC at the bound 0x10FE (TC11). -/
theorem witness_StepKeepsTheInvariant :
    ((regs [(0, 0xFF)]).placeWord 0xBFFF).Inv ∧
      ∃ t, step ((regs [(0, 0xFF)]).placeWord 0xBFFF) = .next t ∧ (t.pc == 0x10FE) = true := by
  refine ⟨⟨by decide +kernel, by decide +kernel, fun j h => ?_⟩, gives_spec (by decide +kernel)⟩
  change ((Vector.replicate 16 (0x0000 : Word))[j]).toNat ≤ 0x1000
  simp

theorem witness_ReachableStatesMeetTheInvariant :
    ((regs [(0, 0xFF)]).placeWord 0xBFFF).Inv ∧
      ∃ t, Reachable ((regs [(0, 0xFF)]).placeWord 0xBFFF) t ∧ (t.pc == 0x10FE) = true :=
  ⟨witness_StepKeepsTheInvariant.1,
    witness_StepKeepsTheInvariant.2.imp fun _ h => ⟨.next .start h.1, h.2⟩⟩

theorem witness_TransactionsKeepMemoryCanonical : State.reset.mem.wf State.reset.fontGlyphs = true := by
  rfl

theorem witness_FontGlyphsIsFixed : ∃ t, run 0x6001 base = .next t :=
  (gives_spec (p := fun _ => true) (by decide +kernel)).imp fun _ h => h.1

/-- An instruction that writes no register but its destination, one that writes VF, one that writes none. -/
theorem witness_OnlyListedRegistersAreWritten :
    (∃ t, exec (.addReg 0 1) base = .next t ∧ ¬ writesReg (.addReg 0 1) 2) ∧
    (∃ t, exec (.loadRegs 0xE) base = .next t ∧ ¬ writesReg (.loadRegs 0xE) 0xF) ∧
    (∃ t, exec (.ldI 0x300) base = .next t ∧ ¬ writesReg (.ldI 0x300) 0xF) := by
  refine ⟨⟨_, rfl, by simp [writesReg]⟩, ?_, ⟨_, rfl, by simp [writesReg]⟩⟩
  exact (executes_spec (by decide +kernel)).imp fun _ h => ⟨h, fun h => absurd (show (0xF : Reg) ≤ 0xE from h) (by decide)⟩

/-- Each clause: an instruction that changes I, the stack and its depth, DT, ST. -/
theorem witness_SpecialRegistersHaveTheirWriters :
    gives (exec (.ldI 0x300) base) (fun t => t.i != base.i) = true ∧
    gives (exec (.call 0x300) base) (fun t => t.stack != base.stack && t.sp != base.sp) = true ∧
    gives (exec .ret { base with sp := 16 }) (fun t => t.sp != 16) = true ∧
    gives (exec (.ldDtReg 0) (regs [(0, 1)])) (fun t => t.dt != 0) = true ∧
    gives (exec (.ldStReg 0) (regs [(0, 1)])) (fun t => t.st != 0) = true := by
  decide +kernel

theorem witness_VideoAndMemoryHaveTheirWriters :
    ∃ t, exec (.ldByte 0 1) base = .next t ∧ (∀ x y n, Instr.ldByte 0 1 ≠ .drw x y n) ∧
      Instr.ldByte 0 1 ≠ .cls ∧
      ∀ x, Instr.ldByte 0 1 ≠ .ldBcd x ∧ Instr.ldByte 0 1 ≠ .storeRegs x := by
  exact ⟨_, rfl, by simp, by simp, by simp⟩

/-- No row and any I, and the highest I at which 15 rows fit. -/
theorem witness_DrawTogglesTheSpritesPixels :
    (0 : Nibble).toNat = 0 ∧ (base.setI 0x0FF1).i.toNat + (0xF : Nibble).toNat ≤ 0x1000 := by
  decide +kernel

/-- The sprite of 15 rows in the lower right corner. -/
theorem witness_OnScreenSpritesIgnoreTheEdgeRule :
    (56 : Byte).toNat + 7 ≤ 63 ∧ (17 : Byte).toNat + 15 ≤ 32 ∧ 14 < 15 ∧ 7 < 8 := by
  decide

theorem witness_DrawingTwiceRestoresTheBuffer :
    (0 : Reg) ≠ regF ∧ (1 : Reg) ≠ regF ∧
      ∃ t u, exec (.drw 0 1 1) (store 0x300 [0xC0] (base.setI 0x300)) = .next t ∧
        exec (.drw 0 1 1) t = .next u := by
  refine ⟨by decide, by decide, ?_⟩
  obtain ⟨t, h, hu⟩ := gives_spec (o := exec (.drw 0 1 1) (store 0x300 [0xC0] (base.setI 0x300)))
    (p := executes (.drw 0 1 1)) (by decide +kernel)
  exact ⟨t, (executes_spec hu).choose, h, (executes_spec hu).choose_spec⟩

/-- The empty stack, one entry, the full stack. -/
theorem witness_ReturnPopsIntoPc :
    base.sp.val = 0 ∧ ({ base with sp := 1 }).sp.val = 0 + 1 ∧ ({ base with sp := 16 }).sp.val = 15 + 1 := by
  decide +kernel

/-- The full stack, and the last push that succeeds. -/
theorem witness_CallPushesTheReturnAddress :
    ({ base with sp := 16 }).sp.val = 16 ∧ ({ base with sp := 15 }).sp.val < 16 := by
  decide +kernel

theorem witness_ReturnResumesAfterTheCall :
    ∃ t t' : State, exec (.call 0x300) { base with sp := 15 } = .next t ∧ t'.stack = t.stack ∧ t'.sp = t.sp := by
  exact ⟨_, _, rfl, rfl, rfl⟩

theorem witness_ByteSkipsCompareWithKk :
    (regs [(0xF, 0xFF)]).getV 0xF = 0xFF ∧ (regs [(0xF, 0xFF)]).getV 0xF ≠ 0xFE := by
  decide +kernel

theorem witness_RegisterSkipsCompareTwoRegisters :
    (regs [(1, 9), (2, 9)]).getV 1 = (regs [(1, 9), (2, 9)]).getV 2 ∧
      (regs [(1, 9), (2, 8)]).getV 1 ≠ (regs [(1, 9), (2, 8)]).getV 2 := by
  decide +kernel

/-- The highest I at which three bytes fit, and the next. -/
theorem witness_BcdStoresThreeDigits :
    (base.setI 0x0FFD).mem.wf (base.setI 0x0FFD).fontGlyphs = true ∧ (base.setI 0x0FFD).effAddr 2 < 0x1000 ∧
      (base.setI 0x0FFE).effAddr 2 ≥ 0x1000 := by
  decide +kernel

/-- The highest I at which sixteen bytes fit. -/
theorem witness_StoreRegistersFillsMemory :
    (base.setI 0x0FF0).mem.wf (base.setI 0x0FF0).fontGlyphs = true ∧ (base.setI 0x0FF0).effAddr (0xF : Reg).toNat < 0x1000 := by
  decide +kernel

/-- The highest I at which sixteen bytes fit. -/
theorem witness_LoadRegistersReadsMemory : (base.setI 0x0FF0).effAddr (0xF : Reg).toNat < 0x1000 := by
  decide +kernel

theorem witness_StoredInstructionIsFetched :
    (base.setI 0x0FF0).mem.wf (base.setI 0x0FF0).fontGlyphs = true ∧ (∃ t, exec (.storeRegs 0xF) (base.setI 0x0FF0) = .next t) ∧
      14 + 1 ≤ (0xF : Reg).toNat :=
  ⟨rfl, executes_spec (by decide +kernel), by decide⟩

/-- The key that V[x] names, no key, and a V[x] that names no key. -/
theorem witness_KeySkipsCompareWithTheKey :
    (∃ k : Key, ({ regs [(1, 0x0F)] with keyIn := some 0xF }).keyIn = some k ∧
      k.toNat = ((regs [(1, 0x0F)]).getV 1).toNat) ∧
    (∀ k : Key, (regs [(1, 0x0F)]).keyIn = some k → k.toNat ≠ ((regs [(1, 0x0F)]).getV 1).toNat) ∧
    (∀ k : Key, ({ regs [(1, 0x10)] with keyIn := some 0 }).keyIn = some k →
      k.toNat ≠ ((regs [(1, 0x10)]).getV 1).toNat) := by
  exact ⟨⟨0xF, rfl, by decide +kernel⟩, (by intro k h; cases h), (by intro k h; cases h; decide +kernel)⟩

theorem witness_KeyWaitTakesTheKeyOrRewinds :
    ({ base with keyIn := some 0xF }).keyIn = some 0xF ∧ base.keyIn = none := by
  exact ⟨rfl, rfl⟩

theorem witness_TimerReadsBackLessTheTicks :
    base.faultLatch = none ∧ ∃ t, exec (.ldDtReg 0) base = .next t := by
  exact ⟨rfl, _, rfl⟩

end Sys2Proof.Tests
end

section
/-! SUPPORT. What holds of every instruction alike: it is never refused, and it leaves the fault latch, the
boot phase, FONT_GLYPHS and the model's own fields as they were (40_cycle.md R83, 10_state.md R34). -/

namespace Sys2Proof.Machine

theorem outcomeOf_ne_refused (x : Except Fault State) (r : Refusal) : outcomeOf x ≠ .refused r := by
  cases x <;> nofun

/-- No arm of the dispatch refuses: an instruction completes or faults (R83, R177). -/
theorem exec_ne_refused (i : Instr) (s : State) (r : Refusal) : exec i s ≠ .refused r := by
  cases i with
  | ret => simp only [exec, execRet]; split <;> nofun
  | call nnn => simp only [exec, execCall]; split <;> nofun
  | ldBcd x => simp only [exec, execLdBcd]; split <;> nofun
  | storeRegs x => simp only [exec, execStoreRegs]; split <;> nofun
  | loadRegs x => simp only [exec, execLoadRegs]; split <;> nofun
  | drw x y n => exact outcomeOf_ne_refused _ r
  | _ => nofun

/-- An instruction writes none of the fields that `SameControl` lists. -/
theorem exec_sameControl {i : Instr} {s t : State} (h : exec i s = .next t) : SameControl s t := by
  cases i with
  | ret => obtain ⟨_, rfl⟩ := execRet_next h; simp [SameControl]
  | call nnn => obtain ⟨_, rfl⟩ := execCall_next h; simp [SameControl]
  | drw x y n => obtain ⟨_, _, _, rfl⟩ := execDrw_next h; simp [SameControl]
  | ldBcd x => obtain ⟨_, rfl⟩ := execLdBcd_next h; simp [SameControl]
  | storeRegs x => obtain ⟨_, rfl⟩ := execStoreRegs_next h; simp [SameControl]
  | loadRegs x => obtain ⟨_, rfl⟩ := execLoadRegs_next h; simp [SameControl]
  | ldRegKey x =>
    obtain rfl := Host.Outcome.next.inj h
    split <;> simp [SameControl]
  | _ =>
    obtain rfl := Host.Outcome.next.inj h
    simp [SameControl]

end Sys2Proof.Machine
end

section
/-! SUPPORT. What the transactions of the interface do, one at a time and in sequence (00_scope.md R9 to R16). -/

namespace Sys2Proof.Machine

/-! ## Sequences of transactions -/

theorem transactAll_append (ts us : List Transaction) (s : State) :
    transactAll (ts ++ us) s = transactAll us (transactAll ts s) := by
  induction ts generalizing s with
  | nil => rfl
  | cons t ts ih => exact ih (transact t s).1

/-- What each transaction of a sequence keeps, the sequence keeps. -/
theorem transactAll_preserves {P : State → Prop} {ts : List Transaction}
    (hP : ∀ t ∈ ts, ∀ s, P s → P (transact t s).1) {s : State} (hs : P s) : P (transactAll ts s) := by
  induction ts generalizing s with
  | nil => exact hs
  | cons t ts ih =>
    rw [List.forall_mem_cons] at hP
    exact ih hP.2 (hP.1 s hs)

/-! ## `Tick` -/

theorem serveTick_unfaulted {s : State} (hl : s.faultLatch = none) : serveTick s = (s.tick, .ok) := by
  simp only [serveTick, hl]

theorem serveTick_latched {s : State} {e : Fault} (hl : s.faultLatch = some e) :
    serveTick s = (s, .error e) := by
  simp only [serveTick, hl]

/-- Ticks served one after another are so many counts down (60_exceptions.md R185). -/
theorem transactAll_ticks_unfaulted (n : Nat) {s : State} (hl : s.faultLatch = none) :
    transactAll (List.replicate n .tick) s = s.tickTimes n := by
  rw [State.tickTimes_eq_iterate]
  induction n generalizing s with
  | zero => rfl
  | succ n ih =>
    rw [List.replicate_succ, transactAll, transact, serveTick_unfaulted hl, Function.iterate_succ_apply]
    exact ih hl

/-- A Faulted machine refuses every tick (40_cycle.md R84). -/
theorem transactAll_ticks_latched (n : Nat) {s : State} {e : Fault} (hl : s.faultLatch = some e) :
    transactAll (List.replicate n .tick) s = s := by
  refine transactAll_preserves (P := (· = s)) ?_ rfl
  rintro t ht _ rfl
  rw [List.eq_of_mem_replicate ht, transact, serveTick_latched hl]

/-! ## `Step` -/

theorem stepTransaction_ne_refused (key : Option Key) (rnd : Byte) (s : State) (r : Refusal) :
    stepTransaction key rnd s ≠ .refused r := by
  unfold stepTransaction
  split
  · nofun
  · split
    · nofun
    · exact exec_ne_refused _ _ r

theorem serveStep_next {key : Option Key} {rnd : Byte} {s t : State}
    (h : stepTransaction key rnd s = .next t) : serveStep key rnd s = (t, .okFlags t.clear t.draw) := by
  simp only [serveStep, h]

theorem serveStep_fault {key : Option Key} {rnd : Byte} {s : State} {e : Fault}
    (h : stepTransaction key rnd s = .fault e) : serveStep key rnd s = (s.latchFault e, .error e) := by
  simp only [serveStep, h]

/-- The fault that a `Step` returns, its own or the one it was refused with, stands in the latch after it
(60_exceptions.md R177, 40_cycle.md R84). -/
theorem serveStep_fault_faultLatch {key : Option Key} {rnd : Byte} {s : State} {e : Fault}
    (h : stepTransaction key rnd s = .fault e) : (serveStep key rnd s).1.faultLatch = some e := by
  rw [serveStep_fault h]
  cases hl : s.faultLatch with
  | none => exact State.latchFault_faultLatch hl e
  | some e' =>
    rw [stepTransaction_latched hl] at h
    rw [State.latchFault_latched hl, hl, Host.Outcome.fault.inj h]

/-! ## One turn of the host's loop -/

/-- A turn is its ticks and then its `Step` (60_exceptions.md R186, log 4). -/
theorem transactAll_turn (turn : HostTurn) (s : State) :
    transactAll turn.transactions s =
      (serveStep turn.key turn.rnd (transactAll (List.replicate turn.ticks .tick) s)).1 :=
  transactAll_append _ [.step turn.key turn.rnd] s

/-- Where the latch is set the ticks are refused, but there the `Step` answers the latched fault with or
without them; elsewhere they are `tickTimes`. -/
theorem stepTransaction_after_ticks (turn : HostTurn) (s : State) :
    stepTransaction turn.key turn.rnd (transactAll (List.replicate turn.ticks .tick) s) =
      stepTransaction turn.key turn.rnd (s.tickTimes turn.ticks) := by
  cases hl : s.faultLatch with
  | none => rw [transactAll_ticks_unfaulted _ hl]
  | some e =>
    have ht : (s.tickTimes turn.ticks).faultLatch = some e := hl
    rw [transactAll_ticks_latched _ hl, stepTransaction_latched hl, stepTransaction_latched ht]

theorem step_eq_stepTransaction_after_ticks (s : State) :
    step s = stepTransaction s.nextTurn.key s.nextTurn.rnd
      (transactAll (List.replicate s.nextTurn.ticks .tick) s.popTurn) :=
  (stepTransaction_after_ticks s.nextTurn s.popTurn).symm

/-- Settles O22: the `Step` that ends the turn answers what `step` answers, and serving it puts the next state
or the fault's latch in place. -/
theorem stepIsTheTurnsTransactions : Obligations.StepIsTheTurnsTransactions := by
  intro s
  rw [step_eq_stepTransaction_after_ticks, transactAll_turn]
  refine ⟨fun t h => ?_, fun e h => serveStep_fault_faultLatch h, stepTransaction_ne_refused _ _ _⟩
  rw [serveStep_next h]

/-! ## FONT_GLYPHS (00_scope.md R5, log 30) -/

theorem stepTransaction_fontGlyphs {key : Option Key} {rnd : Byte} {s t : State}
    (h : stepTransaction key rnd s = .next t) : t.fontGlyphs = s.fontGlyphs := by
  obtain ⟨_, _, i, _, hexec⟩ := stepTransaction_next h
  obtain ⟨_, _, hfont, _⟩ := exec_sameControl hexec
  simpa using hfont

theorem step_fontGlyphs {s t : State} (h : step s = .next t) : t.fontGlyphs = s.fontGlyphs :=
  stepTransaction_fontGlyphs (s := s.popTurn.tickTimes s.nextTurn.ticks) h

theorem serveStep_fontGlyphs (key : Option Key) (rnd : Byte) (s : State) :
    (serveStep key rnd s).1.fontGlyphs = s.fontGlyphs := by
  cases h : stepTransaction key rnd s with
  | next t => rw [serveStep_next h, stepTransaction_fontGlyphs h]
  | fault e => rw [serveStep_fault h, State.latchFault_fontGlyphs]
  | refused r => exact absurd h (stepTransaction_ne_refused key rnd s r)

theorem transact_fontGlyphs (t : Transaction) (s : State) : (transact t s).1.fontGlyphs = s.fontGlyphs := by
  cases t with
  | reset => exact s.resetAgain_fontGlyphs
  | loadRom bytes => simp only [transact, serveLoadRom]; split_ifs <;> simp
  | step key rnd => exact serveStep_fontGlyphs key rnd s
  | tick => simp only [transact, serveTick]; split <;> simp
  | readVideo => rfl

/-- Settles O60: a step is an instruction in the state after the fetch, which writes no control field, and a
sequence keeps what each transaction keeps. -/
theorem fontGlyphsIsFixed : Obligations.FontGlyphsIsFixed := by
  intro s
  refine ⟨fun t h => step_fontGlyphs h, fun ts => ?_⟩
  exact transactAll_preserves (P := fun u => u.fontGlyphs = s.fontGlyphs)
    (fun t _ u hu => (transact_fontGlyphs t u).trans hu) rfl

end Sys2Proof.Machine
end

section
/-! SUPPORT. The writers of each piece of the state (10_state.md sections 2 to 7): which instructions change the
general registers, the special registers, the video buffer and memory, and where the next PC comes from. -/

namespace Sys2Proof.Machine

/-! ## Every field but the general registers and PC -/

/-- Each of these fields is as it was, or the instruction is one of its writers (10_state.md R22, R25, R26, R29 to
R33, 20_memory.md R49). -/
structure ChangedOnlyByWriters (i : Instr) (s t : State) : Prop where
  index : t.i = s.i ∨ (∃ nnn, i = .ldI nnn) ∨ ∃ x, i = .addI x ∨ i = .ldFont x
  stack : t.stack = s.stack ∨ ∃ nnn, i = .call nnn
  depth : t.sp = s.sp ∨ i = .ret ∨ ∃ nnn, i = .call nnn
  delay : t.dt = s.dt ∨ ∃ x, i = .ldDtReg x
  sound : t.st = s.st ∨ ∃ x, i = .ldStReg x
  display : SameDisplay s t ∨ i = .cls ∨ ∃ x y n, i = .drw x y n
  mem : t.mem = s.mem ∨ ∃ x, i = .ldBcd x ∨ i = .storeRegs x

theorem exec_changedOnlyByWriters {i : Instr} {s t : State} (h : exec i s = .next t) :
    ChangedOnlyByWriters i s t := by
  cases i with
  | ret => obtain ⟨_, rfl⟩ := execRet_next h; constructor <;> simp [SameDisplay]
  | call nnn => obtain ⟨_, rfl⟩ := execCall_next h; constructor <;> simp [SameDisplay]
  | drw x y n => obtain ⟨_, _, _, rfl⟩ := execDrw_next h; constructor <;> simp
  | ldBcd x => obtain ⟨_, rfl⟩ := execLdBcd_next h; constructor <;> simp [SameDisplay]
  | storeRegs x => obtain ⟨_, rfl⟩ := execStoreRegs_next h; constructor <;> simp [SameDisplay]
  | loadRegs x => obtain ⟨_, rfl⟩ := execLoadRegs_next h; constructor <;> simp [SameDisplay]
  | ldRegKey x =>
    obtain rfl := Host.Outcome.next.inj h
    split <;> constructor <;> simp [SameDisplay]
  | _ =>
    obtain rfl := Host.Outcome.next.inj h
    constructor <;> simp [SameDisplay]

/-- Settles O30: the writers of each field, and the control fields that no instruction writes. -/
theorem specialRegistersHaveTheirWriters : Obligations.SpecialRegistersHaveTheirWriters := by
  intro i s t h
  have hw := exec_changedOnlyByWriters h
  exact ⟨hw.index.resolve_left, hw.stack.resolve_left, hw.depth.resolve_left, hw.delay.resolve_left,
    hw.sound.resolve_left, exec_sameControl h⟩

/-- Settles O31: what a byte of memory reads as depends on the memory array and FONT_GLYPHS only, and no
instruction writes FONT_GLYPHS. -/
theorem videoAndMemoryHaveTheirWriters : Obligations.VideoAndMemoryHaveTheirWriters := by
  intro i s t h
  have hw := exec_changedOnlyByWriters h
  constructor
  · intro hdrw hcls
    obtain hsame | rfl | ⟨x, y, n, rfl⟩ := hw.display
    · exact hsame
    · exact absurd rfl hcls
    · exact absurd rfl (hdrw x y n)
  · intro hstore a
    obtain hmem | ⟨x, rfl | rfl⟩ := hw.mem
    · obtain ⟨_, _, hfont, _⟩ := exec_sameControl h
      rw [State.byteAt, State.byteAt, hmem, hfont]
    · exact absurd rfl (hstore x).1
    · exact absurd rfl (hstore x).2

/-! ## The general registers (10_state.md R20, R21) -/

/-- Settles O29: by the register update of each instruction, and for those that have none by its frame. -/
theorem onlyListedRegistersAreWritten : Obligations.OnlyListedRegistersAreWritten := by
  intro i s t r h hr
  cases i with
  | ldByte | addByte | ldReg | orReg | andReg | xorReg | rnd | ldRegDt =>
    obtain rfl := Host.Outcome.next.inj h
    exact (State.getV_setV ..).trans (if_neg hr)
  | addReg | subReg | shr | subnReg | shl =>
    obtain rfl := Host.Outcome.next.inj h
    obtain ⟨hx, hf⟩ := not_or.mp hr
    exact (State.getV_setResultAndFlag _ _ _ _ _ hf).trans (if_neg hx)
  | ldRegKey x =>
    obtain rfl := Host.Outcome.next.inj h
    split
    · rfl
    · exact (State.getV_setV ..).trans (if_neg hr)
  | drw x y n =>
    obtain ⟨_, _, _, rfl⟩ := execDrw_next h
    exact (State.getV_setV ..).trans (if_neg hr)
  | loadRegs x =>
    obtain ⟨_, rfl⟩ := execLoadRegs_next h
    have hlt : x.toNat < r.toNat := BitVec.not_le.mp hr
    rw [State.getV_setFirstRegs, dif_neg (by simpa using hlt)]
  | ret => obtain ⟨_, rfl⟩ := execRet_next h; rfl
  | call nnn => obtain ⟨_, rfl⟩ := execCall_next h; rfl
  | ldBcd x => obtain ⟨_, rfl⟩ := execLdBcd_next h; rfl
  | storeRegs x => obtain ⟨_, rfl⟩ := execStoreRegs_next h; rfl
  | seByte | sneByte | seReg | sneReg | skp | sknp =>
    obtain rfl := Host.Outcome.next.inj h
    exact s.getV_skipIf _ r
  | _ => obtain rfl := Host.Outcome.next.inj h; rfl

/-! ## PC (40_cycle.md R87) -/

/-- Where PC comes from: it stays, skips or goes back by one instruction, or is a 12-bit target, such a target plus
a register, or a stack entry. -/
inductive NextPc (s : State) : Word → Prop where
  | stay : NextPc s s.pc
  | skip : NextPc s (s.pc + 2)
  | rewind : NextPc s (s.pc - 2)
  | target (nnn : Addr) : NextPc s (zextAddr nnn)
  | offset (nnn : Addr) (b : Byte) : NextPc s (zextAddr nnn + zextByte b)
  | pop (j : Nat) (hj : j < 16) : NextPc s s.stack[j]

theorem nextPc_skipIf (s : State) (c : Bool) : NextPc s (s.skipIf c).pc := by
  cases c with
  | false => exact .stay
  | true => exact .skip

theorem exec_nextPc {i : Instr} {s t : State} (h : exec i s = .next t) : NextPc s t.pc := by
  cases i with
  | ret => obtain ⟨_, rfl⟩ := execRet_next h; exact .pop _ _
  | call nnn => obtain ⟨_, rfl⟩ := execCall_next h; exact .target nnn
  | jp nnn => obtain rfl := Host.Outcome.next.inj h; exact .target nnn
  | jpV0 nnn => obtain rfl := Host.Outcome.next.inj h; exact .offset nnn _
  | seByte | sneByte | seReg | sneReg | skp | sknp =>
    obtain rfl := Host.Outcome.next.inj h
    exact nextPc_skipIf s _
  | ldRegKey x =>
    obtain rfl := Host.Outcome.next.inj h
    split
    · exact .rewind
    · exact .stay
  | drw x y n => obtain ⟨_, _, _, rfl⟩ := execDrw_next h; exact .stay
  | ldBcd x => obtain ⟨_, rfl⟩ := execLdBcd_next h; exact .stay
  | storeRegs x => obtain ⟨_, rfl⟩ := execStoreRegs_next h; exact .stay
  | loadRegs x => obtain ⟨_, rfl⟩ := execLoadRegs_next h; exact .stay
  | _ => obtain rfl := Host.Outcome.next.inj h; exact .stay

theorem toNat_zextAddr (nnn : Addr) : (zextAddr nnn).toNat = nnn.toNat :=
  BitVec.toNat_setWidth_of_le (by decide)

theorem toNat_zextByte (b : Byte) : (zextByte b).toNat = b.toNat :=
  BitVec.toNat_setWidth_of_le (by decide)

end Sys2Proof.Machine
end

section
/-! SUPPORT. The machine's invariant: the reset state meets it, every step keeps it, and so every state that a run
reaches meets it (10_state.md R24, log 24). -/

namespace Sys2Proof.Machine

/-! ## Reset -/

theorem State.resetWith_inv (font : FontTable) : (State.resetWith font).Inv where
  memory := State.resetWith_mem_wf font
  pcBound := show 0x0200 ≤ 0x10FE by decide
  stackBound j hj := by simp [State.resetWith]

/-- Settles O25: the transaction Reset leaves the memory, PC and stack of `State.resetWith`. -/
theorem resetMeetsTheInvariant : Obligations.ResetMeetsTheInvariant := by
  refine ⟨State.resetWith_inv _, State.resetWith_inv, fun s => ?_⟩
  obtain ⟨hmem, hpc, hstack⟩ := State.resetWith_inv s.fontGlyphs
  exact ⟨hmem, hpc, hstack⟩

/-! ## One instruction -/

section
variable {i : Instr} {s t : State}

/-- Only Fx33 and Fx55 change memory, and their writes keep the canonical form. -/
theorem exec_mem_wf (hm : s.mem.wf s.fontGlyphs = true) (h : exec i s = .next t) :
    t.mem.wf t.fontGlyphs = true := by
  obtain hmem | ⟨x, rfl | rfl⟩ := (exec_changedOnlyByWriters h).mem
  · obtain ⟨_, _, hfont, _⟩ := exec_sameControl h
    rwa [hmem, hfont]
  · obtain ⟨hi, rfl⟩ := execLdBcd_next h
    exact Memory.writeAll_wf hm _ _ (.inr hi)
  · obtain ⟨hi, rfl⟩ := execStoreRegs_next h
    exact Memory.writeAll_wf hm _ _ (.inr (by rwa [s.length_firstRegs x]))

/-- Only 2nnn changes an entry of the stack, and what it pushes is the PC after the fetch. -/
theorem exec_stackBound (hpc : s.pc.toNat ≤ 0x1000)
    (hs : ∀ (j : Nat) (hj : j < 16), (s.stack[j]).toNat ≤ 0x1000) (h : exec i s = .next t) (j : Nat)
    (hj : j < 16) : (t.stack[j]).toNat ≤ 0x1000 := by
  obtain hstack | ⟨nnn, rfl⟩ := (exec_changedOnlyByWriters h).stack
  · simp only [hstack, hs j hj]
  · obtain ⟨hsp, rfl⟩ := execCall_next h
    simp only [State.setPc_stack, Vector.getElem_set]
    split
    · exact hpc
    · exact hs j hj

/-- The bound 0x10FE is that of Bnnn, 0x0FFF + 0xFF (10_state.md R24). -/
theorem NextPc.le {pc : Word} (hlo : 2 ≤ s.pc.toNat) (hhi : s.pc.toNat ≤ 0x1000)
    (hs : ∀ (j : Nat) (hj : j < 16), (s.stack[j]).toNat ≤ 0x1000) (h : NextPc s pc) :
    pc.toNat ≤ 0x10FE := by
  cases h with
  | stay => omega
  | skip => bv_omega
  | rewind => bv_omega
  | target nnn => rw [toNat_zextAddr]; omega
  | offset nnn b => rw [BitVec.toNat_add, toNat_zextAddr, toNat_zextByte]; omega
  | pop j hj => exact (hs j hj).trans (by decide)

/-- An instruction keeps the invariant in every state that a fetch leaves: there PC is 2 to 0x1000. -/
theorem exec_inv (hlo : 2 ≤ s.pc.toNat) (hhi : s.pc.toNat ≤ 0x1000) (hs : s.Inv)
    (h : exec i s = .next t) : t.Inv where
  memory := exec_mem_wf hs.memory h
  pcBound := (exec_nextPc h).le hlo hhi hs.stackBound
  stackBound := exec_stackBound hhi hs.stackBound h

end

/-! ## One step, and runs -/

/-- A fetch succeeds below 0x0FFF only, so it leaves PC at 2 to 0x1000, whatever PC was. -/
theorem stepTransaction_inv {key : Option Key} {rnd : Byte} {s t : State} (hs : s.Inv)
    (h : stepTransaction key rnd s = .next t) : t.Inv := by
  obtain ⟨_, hpc, i, _, hexec⟩ := stepTransaction_next h
  have hlo : 2 ≤ (s.pc + 2).toNat := by bv_omega
  have hhi : (s.pc + 2).toNat ≤ 0x1000 := by bv_omega
  have hfetched : ((s.beginStep key rnd).setPc (s.pc + 2)).Inv :=
    ⟨hs.memory, hhi.trans (by decide), hs.stackBound⟩
  exact exec_inv hlo hhi hfetched hexec

/-- Settles O26: the ticks before the Step touch the timers only, and the Step keeps the invariant. -/
theorem stepKeepsTheInvariant : Obligations.StepKeepsTheInvariant := by
  intro s t hs h
  have hticked : (s.popTurn.tickTimes s.nextTurn.ticks).Inv := ⟨hs.memory, hs.pcBound, hs.stackBound⟩
  exact stepTransaction_inv hticked h

/-- Settles O27, by induction on the run. -/
theorem reachableStatesMeetTheInvariant : Obligations.ReachableStatesMeetTheInvariant := by
  intro s t hs hrun
  induction hrun with
  | start => exact hs
  | next _ hstep ih => exact stepKeepsTheInvariant _ _ ih hstep

/-! ## The fault latch and the boot phase (10_state.md R34, 70_reset_and_hazards.md R206) -/

/-- Settles O13: a step begins unfaulted or answers the latched fault, its start ends the boot order and counts
the step, and the instruction writes no control field. -/
theorem completedStepLeavesNoFault : Obligations.CompletedStepLeavesNoFault := by
  intro s t h
  obtain ⟨hlatch, _, i, _, hexec⟩ := stepTransaction_next (show stepTransaction _ _ _ = .next t from h)
  obtain ⟨hfault, hboot, _, _, _, hqueue, hcount⟩ := exec_sameControl hexec
  exact ⟨hlatch, hfault.trans hlatch, hboot, hqueue, hcount⟩

end Sys2Proof.Machine
end

section
/-! SUPPORT. The memory array as programs see it (20_memory.md): fetches, the faults of data accesses that leave
memory, a store followed by a fetch, and the canonical form along every sequence of transactions. -/

namespace Sys2Proof.Machine

/-! ## Fetches (20_memory.md R43, R44) -/

theorem toNat_wordOfBytes (hi lo : Byte) : (wordOfBytes hi lo).toNat = hi.toNat * 256 + lo.toNat := by
  rw [wordOfBytes, BitVec.toNat_append, ← Nat.shiftLeft_add_eq_or_of_lt lo.isLt, Nat.shiftLeft_eq]

/-- A fetch whose two bytes exist is big-endian. -/
theorem fetchWord_bigEndian (s : State) {addr : Nat} (h : addr + 1 < 0x1000) :
    ∃ w : Word, fetchWord s.fontGlyphs s.mem addr = .ok w ∧
      w.toNat = (s.byteAt addr).toNat * 256 + (s.byteAt (addr + 1)).toNat :=
  ⟨_, fetchWord_ok _ _ addr h, toNat_wordOfBytes _ _⟩

theorem fetchDecode_outOfBounds {s : State} (hpc : 0x1000 ≤ s.pc.toNat + 1) :
    fetchDecode s = .error (.outOfBounds (max s.pc.toNat 0x1000)) := by
  rw [fetchDecode, fetchWord_error _ _ _ hpc]

theorem stepTransaction_outOfBounds {key : Option Key} {rnd : Byte} {s : State} (hl : s.faultLatch = none)
    (hpc : 0x1000 ≤ s.pc.toNat + 1) :
    stepTransaction key rnd s = .fault (.outOfBounds (max s.pc.toNat 0x1000)) := by
  have hf := fetchDecode_outOfBounds (s := s.beginStep key rnd) hpc
  simp only [stepTransaction, hl, hf, State.beginStep_pc]

/-- The ticks of the turn touch neither the latch nor PC, so the step faults in its fetch. -/
theorem step_outOfBounds {s : State} (hl : s.faultLatch = none) (hpc : 0x1000 ≤ s.pc.toNat + 1) :
    step s = .fault (.outOfBounds (max s.pc.toNat 0x1000)) :=
  stepTransaction_outOfBounds (s := s.popTurn.tickTimes s.nextTurn.ticks) hl hpc

/-- Settles O9: both bytes of a fetch exist up to 0x0FFE, and past it the first that does not is the higher of
PC and 0x1000. -/
theorem fetchIsBigEndianAndBoundsChecked : Obligations.FetchIsBigEndianAndBoundsChecked := by
  intro s
  refine ⟨fun hpc => fetchWord_bigEndian s (by omega), fun hpc hl => ?_, fun hpc hl => ?_⟩
  · rw [step_outOfBounds hl (by omega), hpc]
    rfl
  · rw [step_outOfBounds hl (by omega), Nat.max_eq_left hpc]

/-! ## Data accesses that leave memory (20_memory.md R51, 60_exceptions.md R179) -/

/-- The first byte out of range of an access that starts at `base` is at the higher of `base` and 0x1000. -/
theorem faultsAtFirstByte_max {base count : Nat} (hc : count ≠ 0) (h : 0x1000 < base + count) :
    FaultsAtFirstByte base count (.fault (.outOfBounds (max base 0x1000))) := by
  refine ⟨0x1000 - base, by omega, by omega, fun j hj => by omega, ?_⟩
  rw [add_tsub_eq_max]

/-- Settles O24: each of the four accesses faults at the higher of I and 0x1000. -/
theorem dataAccessFaultsAtItsFirstByte : Obligations.DataAccessFaultsAtItsFirstByte := by
  intro x y n s
  refine ⟨fun hn h => ?_, fun h => ?_, fun h => ?_, fun h => ?_⟩
  · rw [exec, execDrw_outOfBounds x y n s hn h]
    exact faultsAtFirstByte_max hn h
  · rw [exec, execLdBcd_outOfBounds x s h]
    exact faultsAtFirstByte_max (by decide) h
  · rw [exec, execStoreRegs_outOfBounds x s h]
    exact faultsAtFirstByte_max (Nat.succ_ne_zero _) h
  · rw [exec, execLoadRegs_outOfBounds x s h]
    exact faultsAtFirstByte_max (Nat.succ_ne_zero _) h

/-! ## A store and the next fetch (20_memory.md R55, 44_index_memory.md R144) -/

/-- After Fx55 the byte at I + k is V[k], for k up to x. -/
theorem byteAt_of_storeRegs {x : Reg} {s t : State} (hm : s.mem.wf s.fontGlyphs = true)
    (h : exec (.storeRegs x) s = .next t) {k : Nat} (hk : k ≤ x.toNat) :
    t.byteAt (s.effAddr k) = s.getV (BitVec.ofNat 4 k) := by
  obtain ⟨hi, rfl⟩ := execStoreRegs_next h
  have hlen := s.length_firstRegs x
  have hfit : s.effAddr 0 + (s.firstRegs x).length ≤ 0x1000 := by rwa [hlen]
  have hin : s.effAddr 0 ≤ s.effAddr k ∧ s.effAddr k < s.effAddr 0 + (s.firstRegs x).length := by
    simp only [State.effAddr]
    omega
  have hoff : s.effAddr k - s.effAddr 0 = k := Nat.add_sub_cancel_left ..
  rw [State.byteAt_setMem, Memory.read_writeAll hm _ _ (.inr hfit), dif_pos hin, State.getElem_firstRegs, hoff]

/-- Settles O55: the two bytes of the fetch are V[k] and V[k + 1], and both exist because the store completed. -/
theorem storedInstructionIsFetched : Obligations.StoredInstructionIsFetched := by
  intro x s t k hm h hk
  obtain ⟨hi, _⟩ := execStoreRegs_next h
  have hfit : s.effAddr k + 1 < 0x1000 := by
    simp only [State.effAddr]
    omega
  obtain ⟨w, hw, hval⟩ := fetchWord_bigEndian t hfit
  have hhigh := byteAt_of_storeRegs hm h (show k ≤ x.toNat by omega)
  have hlow : t.byteAt (s.effAddr k + 1) = s.getV (BitVec.ofNat 4 (k + 1)) := byteAt_of_storeRegs hm h hk
  exact ⟨w, hw, by rw [hval, hhigh, hlow]⟩

/-! ## The canonical form along transactions (log 24) -/

theorem stepTransaction_mem_wf {key : Option Key} {rnd : Byte} {s t : State}
    (hm : s.mem.wf s.fontGlyphs = true) (h : stepTransaction key rnd s = .next t) :
    t.mem.wf t.fontGlyphs = true := by
  obtain ⟨_, _, i, _, hexec⟩ := stepTransaction_next h
  exact exec_mem_wf (s := (s.beginStep key rnd).setPc (s.pc + 2)) hm hexec

theorem serveStep_mem_wf (key : Option Key) (rnd : Byte) {s : State} (hm : s.mem.wf s.fontGlyphs = true) :
    (serveStep key rnd s).1.mem.wf (serveStep key rnd s).1.fontGlyphs = true := by
  cases h : stepTransaction key rnd s with
  | next t => rw [serveStep_next h]; exact stepTransaction_mem_wf hm h
  | fault e => rw [serveStep_fault h, State.latchFault_fontGlyphs]; exact State.latchFault_mem_wf hm e
  | refused r => exact absurd h (stepTransaction_ne_refused key rnd s r)

/-- Memory changes only by a ROM that is admitted and fits. -/
theorem serveLoadRom_mem_wf (bytes : List Byte) {s : State} (hm : s.mem.wf s.fontGlyphs = true) :
    (serveLoadRom bytes s).1.mem.wf (serveLoadRom bytes s).1.fontGlyphs = true := by
  unfold serveLoadRom
  split_ifs with _ hfits
  · exact State.loadRom_mem_wf hm ((wellFormedRom_iff bytes).mp hfits)
  · exact hm
  · exact hm

theorem serveTick_mem_wf {s : State} (hm : s.mem.wf s.fontGlyphs = true) :
    (serveTick s).1.mem.wf (serveTick s).1.fontGlyphs = true := by
  cases hl : s.faultLatch with
  | none => rw [serveTick_unfaulted hl]; exact hm
  | some e => rw [serveTick_latched hl]; exact hm

theorem transact_mem_wf (t : Transaction) {s : State} (hm : s.mem.wf s.fontGlyphs = true) :
    (transact t s).1.mem.wf (transact t s).1.fontGlyphs = true := by
  cases t with
  | reset => exact State.resetWith_mem_wf s.fontGlyphs
  | loadRom bytes => exact serveLoadRom_mem_wf bytes hm
  | step key rnd => exact serveStep_mem_wf key rnd hm
  | tick => exact serveTick_mem_wf hm
  | readVideo => exact hm

/-- Settles O28: a sequence keeps what each transaction keeps. -/
theorem transactionsKeepMemoryCanonical : Obligations.TransactionsKeepMemoryCanonical := by
  intro ts s hm
  exact transactAll_preserves (P := fun u => u.mem.wf u.fontGlyphs = true)
    (fun t _ u hu => transact_mem_wf t hu) hm

end Sys2Proof.Machine
end

section
/-! SUPPORT. The encoder and the decoder as two directions of one correspondence, the decoder against the opcode
map, and the words that are no instruction (30_encoding.md). -/

namespace Sys2Proof

/-! ## The fields of a word (R61) -/

/-- Settles O6: each field is a bit range, so a quotient and a remainder, and the overlaps are those of the word
written as four nibbles and as family, x and kk. -/
theorem fieldsOfAWord : Obligations.FieldsOfAWord := by
  refine ⟨fun w => ?_, rfl⟩
  have hlt := w.isLt
  have hkk : (fields w).kk = (fields w).y ++ (fields w).n := by
    conv_lhs => rw [← ofNibbles_fields w, fields_ofNibbles]
  have hnnn : (fields w).nnn = (fields w).x ++ (fields w).kk := by
    conv_lhs => rw [← ofByteForm_fields w, fields_ofByteForm]
  refine ⟨?_, ?_, ?_, ?_, ?_, ?_, hkk, hnnn⟩ <;>
    simp only [fields, BitVec.extractLsb'_toNat, Nat.shiftRight_eq_div_pow] <;> omega

/-! ## Decoding an encoded instruction (R61, R64) -/

theorem select_fields_encode (i : Instr) : select (fields (encode i)) = some i := by
  cases i with
  | cls | ret => rfl
  | jp | call | ldI | jpV0 => rw [encode, fields_ofAddrForm]; rfl
  | seByte | sneByte | ldByte | addByte | rnd | skp | sknp | ldRegDt | ldRegKey | ldDtReg | ldStReg | addI
  | ldFont | ldBcd | storeRegs | loadRegs => rw [encode, fields_ofByteForm]; rfl
  | seReg | ldReg | orReg | andReg | xorReg | addReg | subReg | shr | subnReg | shl | sneReg | drw =>
    rw [encode, fields_ofNibbles]; rfl

theorem decodeWord_encode (i : Instr) : decodeWord (encode i) = .ok i :=
  (decodeWord_ok_iff _ i).mpr (select_fields_encode i)

/-- Settles O2: the fields of each form of an encoded word are its operands, and the two bytes of a word decode as
the word does. -/
theorem decodeOfEncodeIsTheInstruction : Obligations.DecodeOfEncodeIsTheInstruction := by
  intro i
  have hw := decodeWord_encode i
  refine ⟨hw, ?_⟩
  rw [encodeBytes, decodeBytes_word, hw]
  rfl

/-- Settles O1, by evaluating the decoder on each word. -/
theorem wordsOfTheMapDecode : Obligations.WordsOfTheMapDecode :=
  ⟨rfl, rfl, rfl, rfl, rfl, rfl, rfl, rfl, rfl, rfl, rfl, rfl, rfl, rfl, rfl, rfl, rfl, rfl⟩

/-! ## Encoding a decoded word (R61, R64, R67) -/

section
variable {w : Word} {i : Instr} {f n : Nibble} {kk : Byte} {nnn : Addr}

theorem ofAddrForm_of_fields (hf : (fields w).itype = f) (hnnn : (fields w).nnn = nnn) :
    ofAddrForm f nnn = w := by
  rw [← hf, ← hnnn, ofAddrForm_fields]

theorem ofByteForm_of_fields (hf : (fields w).itype = f) (hkk : (fields w).kk = kk) :
    ofByteForm f (fields w).x kk = w := by
  rw [← hf, ← hkk, ofByteForm_fields]

theorem ofNibbles_of_fields (hf : (fields w).itype = f) (hn : (fields w).n = n) :
    ofNibbles f (fields w).x (fields w).y n = w := by
  rw [← hf, ← hn, ofNibbles_fields]

theorem encode_of_selectFamily0 (hf : (fields w).itype = 0x0) (h : selectFamily0 (fields w) = some i) :
    encode i = w := by
  unfold selectFamily0 at h
  split_ifs at h with hcls hret
  · obtain rfl := Option.some.inj h; exact ofAddrForm_of_fields hf hcls
  · obtain rfl := Option.some.inj h; exact ofAddrForm_of_fields hf hret

theorem encode_of_selectFamily8 (hf : (fields w).itype = 0x8) (h : selectFamily8 (fields w) = some i) :
    encode i = w := by
  unfold selectFamily8 at h
  split at h
  case h_10 => cases h
  all_goals
    next hn =>
      obtain rfl := Option.some.inj h
      exact ofNibbles_of_fields hf hn

theorem encode_of_selectFamilyE (hf : (fields w).itype = 0xE) (h : selectFamilyE (fields w) = some i) :
    encode i = w := by
  unfold selectFamilyE at h
  split_ifs at h with hskp hsknp
  · obtain rfl := Option.some.inj h; exact ofByteForm_of_fields hf hskp
  · obtain rfl := Option.some.inj h; exact ofByteForm_of_fields hf hsknp

theorem encode_of_selectFamilyF (hf : (fields w).itype = 0xF) (h : selectFamilyF (fields w) = some i) :
    encode i = w := by
  unfold selectFamilyF at h
  split at h
  case h_10 => cases h
  all_goals
    next hkk =>
      obtain rfl := Option.some.inj h
      exact ofByteForm_of_fields hf hkk

/-- The selected instruction's encoding has the word's family and the fields that the instruction carries. -/
theorem encode_of_select (h : select (fields w) = some i) : encode i = w := by
  unfold select at h
  split at h
  case h_1 hf => exact encode_of_selectFamily0 hf h
  case h_9 hf => exact encode_of_selectFamily8 hf h
  case h_15 hf => exact encode_of_selectFamilyE hf h
  case h_16 hf => exact encode_of_selectFamilyF hf h
  case h_6 hf | h_10 hf =>
    split_ifs at h with hn
    obtain rfl := Option.some.inj h
    exact ofNibbles_of_fields hf hn
  case h_2 hf | h_3 hf | h_11 hf | h_12 hf =>
    obtain rfl := Option.some.inj h
    exact ofAddrForm_of_fields hf rfl
  case h_4 hf | h_5 hf | h_7 hf | h_8 hf | h_13 hf =>
    obtain rfl := Option.some.inj h
    exact ofByteForm_of_fields hf rfl
  case h_14 hf =>
    obtain rfl := Option.some.inj h
    exact ofNibbles_of_fields hf rfl
  case h_17 => cases h

end

/-- Settles O3: a word of each family is its family and the fields that the selected instruction carries. -/
theorem encodeOfDecodeIsTheWord : Obligations.EncodeOfDecodeIsTheWord :=
  fun w i h => encode_of_select ((decodeWord_ok_iff w i).mp h)

/-! ## The opcode map (R64) -/

/-- Two rows that select one word agree where both masks stand, and no two different rows of the map do. -/
theorem row_unique {w : Word} {row row' : OpcodeRow} (hrow : row ∈ opcodeRows) (hrow' : row' ∈ opcodeRows)
    (h : w &&& row.mask = row.pattern) (h' : w &&& row'.mask = row'.pattern) : row' = row := by
  have hdisjoint : ∀ r ∈ opcodeRows, ∀ r' ∈ opcodeRows,
      r.pattern &&& r'.mask = r'.pattern &&& r.mask → r' = r := by decide +kernel
  refine hdisjoint row hrow row' hrow' ?_
  rw [← h, ← h', BitVec.and_assoc, BitVec.and_assoc, BitVec.and_comm row.mask]

open Laws.SelectedByOwnRow in
/-- The facts of PerInstr, one for each instruction, as one statement. -/
theorem selectedByOwnRow (i : Instr) : Statement i := by
  cases i
  exacts [cls, ret, jp _, call _, seByte _ _, sneByte _ _, seReg _ _, ldByte _ _, addByte _ _, ldReg _ _,
    orReg _ _, andReg _ _, xorReg _ _, addReg _ _, subReg _ _, shr _ _, subnReg _ _, shl _ _, sneReg _ _,
    ldI _, jpV0 _, rnd _ _, drw _ _ _, skp _, sknp _, ldRegDt _, ldRegKey _, ldDtReg _, ldStReg _, addI _,
    ldFont _, ldBcd _, storeRegs _, loadRegs _]

/-- A word that decodes is its instruction's encoding, which the row of the mnemonic selects. -/
theorem exists_row_of_decodeWord {w : Word} {i : Instr} (h : decodeWord w = .ok i) :
    ∃ row ∈ opcodeRows, row.mnemonic = i.mnemonic ∧ w &&& row.mask = row.pattern := by
  obtain ⟨row, hrow, hm, hsel⟩ := selectedByOwnRow i
  rw [encodeOfDecodeIsTheWord w i h] at hsel
  exact ⟨row, hrow, hm, beq_iff_eq.mp hsel⟩

theorem ofNibbles_inj {a b c d a' b' c' d' : Nibble} (h : ofNibbles a b c d = ofNibbles a' b' c' d') :
    a = a' ∧ b = b' ∧ c = c' ∧ d = d' := by
  have hf := congrArg fields h
  rw [fields_ofNibbles, fields_ofNibbles, Fields.mk.injEq] at hf
  obtain ⟨ha, hb, hc, hd, -, -⟩ := hf
  exact ⟨ha, hb, hc, hd⟩

/-- Every word that the row selects decodes to an instruction of the row's mnemonic. -/
def OpcodeRow.Decodes (row : OpcodeRow) : Prop :=
  ∀ w : Word, w &&& row.mask = row.pattern → ∃ i, decodeWord w = .ok i ∧ i.mnemonic = row.mnemonic

/-- What the decoder's dispatch must answer on four nibbles for a word of them to decode to a mnemonic. -/
def SelectsMnemonic (m : String) (a b c d : Nibble) : Prop :=
  (select { itype := a, x := b, y := c, n := d, kk := c ++ d, nnn := b ++ c ++ d }).map Instr.mnemonic = some m

theorem decodes_of_selectsMnemonic {m : String} {a b c d : Nibble} (h : SelectsMnemonic m a b c d) :
    ∃ i, decodeWord (ofNibbles a b c d) = .ok i ∧ i.mnemonic = m := by
  obtain ⟨i, hi, hm⟩ := Option.map_eq_some_iff.mp h
  exact ⟨i, (decodeWord_ok_iff _ i).mpr (by rw [fields_ofNibbles, hi]), hm⟩

/-- A mask fixes whole nibbles: of a word that a row selects, each nibble that the mask covers is the pattern's. -/
theorem decodes_of_nibbles {m : String} {pa pb pc pd ma mb mc md : Nibble}
    (h : ∀ a b c d, a &&& ma = pa → b &&& mb = pb → c &&& mc = pc → d &&& md = pd →
      SelectsMnemonic m a b c d) :
    OpcodeRow.Decodes ⟨m, ofNibbles pa pb pc pd, ofNibbles ma mb mc md⟩ := by
  intro w hsel
  rw [← ofNibbles_fields w,
    Laws.SelectedByOwnRow.selects_ofNibbles (ha := rfl) (hb := rfl) (hc := rfl) (hd := rfl)] at hsel
  obtain ⟨ha, hb, hc, hd⟩ := ofNibbles_inj hsel
  rw [← ofNibbles_fields w]
  exact decodes_of_selectsMnemonic (h _ _ _ _ ha hb hc hd)

section
variable {m : String}

theorem decodes_of_word (p : Word) (h : (decodeWord p).map Instr.mnemonic = .ok m) :
    OpcodeRow.Decodes ⟨m, p, 0xFFFF⟩ := by
  intro w hsel
  obtain rfl : w = p := by rwa [show (0xFFFF : Word) = BitVec.allOnes 16 from rfl, BitVec.and_allOnes] at hsel
  cases hd : decodeWord w with
  | ok i => rw [hd] at h; exact ⟨i, rfl, Except.ok.inj h⟩
  | error e => rw [hd] at h; cases h

theorem decodes_of_family (f : Nibble) (h : ∀ b c d, SelectsMnemonic m f b c d) :
    OpcodeRow.Decodes ⟨m, ofNibbles f 0 0 0, 0xF000⟩ := by
  refine decodes_of_nibbles (ma := 0xF) (mb := 0) (mc := 0) (md := 0) fun a b c d ha _ _ _ => ?_
  obtain rfl : a = f := BitVec.and_allOnes.symm.trans ha
  exact h b c d

theorem decodes_of_familyAndN (f n : Nibble) (h : ∀ b c, SelectsMnemonic m f b c n) :
    OpcodeRow.Decodes ⟨m, ofNibbles f 0 0 n, 0xF00F⟩ := by
  refine decodes_of_nibbles (ma := 0xF) (mb := 0) (mc := 0) (md := 0xF) fun a b c d ha _ _ hd => ?_
  obtain rfl : a = f := BitVec.and_allOnes.symm.trans ha
  obtain rfl : d = n := BitVec.and_allOnes.symm.trans hd
  exact h b c

theorem decodes_of_familyAndKk (f c d : Nibble) (h : ∀ b, SelectsMnemonic m f b c d) :
    OpcodeRow.Decodes ⟨m, ofNibbles f 0 c d, 0xF0FF⟩ := by
  refine decodes_of_nibbles (ma := 0xF) (mb := 0) (mc := 0xF) (md := 0xF) fun a b c' d' ha _ hc hd => ?_
  obtain rfl : a = f := BitVec.and_allOnes.symm.trans ha
  obtain rfl : c' = c := BitVec.and_allOnes.symm.trans hc
  obtain rfl : d' = d := BitVec.and_allOnes.symm.trans hd
  exact h b

end

theorem opcodeRows0to7_decode : ∀ row ∈ opcodeRows0to7, row.Decodes := by
  simp only [opcodeRows0to7, List.forall_mem_cons]
  exact ⟨decodes_of_word 0x00E0 rfl, decodes_of_word 0x00EE rfl, decodes_of_family 0x1 fun _ _ _ => rfl,
    decodes_of_family 0x2 fun _ _ _ => rfl, decodes_of_family 0x3 fun _ _ _ => rfl,
    decodes_of_family 0x4 fun _ _ _ => rfl, decodes_of_familyAndN 0x5 0x0 fun _ _ => rfl,
    decodes_of_family 0x6 fun _ _ _ => rfl, decodes_of_family 0x7 fun _ _ _ => rfl, List.forall_mem_nil _⟩

theorem opcodeRows8to9_decode : ∀ row ∈ opcodeRows8to9, row.Decodes := by
  simp only [opcodeRows8to9, List.forall_mem_cons]
  exact ⟨decodes_of_familyAndN 0x8 0x0 fun _ _ => rfl, decodes_of_familyAndN 0x8 0x1 fun _ _ => rfl,
    decodes_of_familyAndN 0x8 0x2 fun _ _ => rfl, decodes_of_familyAndN 0x8 0x3 fun _ _ => rfl,
    decodes_of_familyAndN 0x8 0x4 fun _ _ => rfl, decodes_of_familyAndN 0x8 0x5 fun _ _ => rfl,
    decodes_of_familyAndN 0x8 0x6 fun _ _ => rfl, decodes_of_familyAndN 0x8 0x7 fun _ _ => rfl,
    decodes_of_familyAndN 0x8 0xE fun _ _ => rfl, decodes_of_familyAndN 0x9 0x0 fun _ _ => rfl,
    List.forall_mem_nil _⟩

theorem opcodeRowsAtoE_decode : ∀ row ∈ opcodeRowsAtoE, row.Decodes := by
  simp only [opcodeRowsAtoE, List.forall_mem_cons]
  exact ⟨decodes_of_family 0xA fun _ _ _ => rfl, decodes_of_family 0xB fun _ _ _ => rfl,
    decodes_of_family 0xC fun _ _ _ => rfl, decodes_of_family 0xD fun _ _ _ => rfl,
    decodes_of_familyAndKk 0xE 0x9 0xE fun _ => rfl, decodes_of_familyAndKk 0xE 0xA 0x1 fun _ => rfl,
    List.forall_mem_nil _⟩

theorem opcodeRowsF_decode : ∀ row ∈ opcodeRowsF, row.Decodes := by
  simp only [opcodeRowsF, List.forall_mem_cons]
  exact ⟨decodes_of_familyAndKk 0xF 0x0 0x7 fun _ => rfl, decodes_of_familyAndKk 0xF 0x0 0xA fun _ => rfl,
    decodes_of_familyAndKk 0xF 0x1 0x5 fun _ => rfl, decodes_of_familyAndKk 0xF 0x1 0x8 fun _ => rfl,
    decodes_of_familyAndKk 0xF 0x1 0xE fun _ => rfl, decodes_of_familyAndKk 0xF 0x2 0x9 fun _ => rfl,
    decodes_of_familyAndKk 0xF 0x3 0x3 fun _ => rfl, decodes_of_familyAndKk 0xF 0x5 0x5 fun _ => rfl,
    decodes_of_familyAndKk 0xF 0x6 0x5 fun _ => rfl, List.forall_mem_nil _⟩

theorem opcodeRows_decode : ∀ row ∈ opcodeRows, row.Decodes := by
  simp only [opcodeRows, List.forall_mem_append]
  exact ⟨⟨⟨opcodeRows0to7_decode, opcodeRows8to9_decode⟩, opcodeRowsAtoE_decode⟩, opcodeRowsF_decode⟩

/-- Settles O4: a row's words decode row by row, a decoded word is selected by its instruction's own row, and two
rows never select one word. -/
theorem decoderIsTheOpcodeMap : Obligations.DecoderIsTheOpcodeMap := by
  refine ⟨rfl, fun w => ⟨fun row hrow hsel => ?_, fun i hi => ?_, fun hnone => ?_⟩⟩
  · exact ⟨opcodeRows_decode row hrow w hsel, fun row' hrow' hsel' => row_unique hrow hrow' hsel hsel'⟩
  · obtain ⟨row, hrow, hm, hsel⟩ := exists_row_of_decodeWord hi
    refine ⟨row, hrow, hm, fun row' hrow' => ⟨row_unique hrow hrow' hsel, ?_⟩⟩
    rintro rfl
    exact hsel
  · cases hd : decodeWord w with
    | ok i =>
      obtain ⟨row, hrow, -, hsel⟩ := exists_row_of_decodeWord hd
      exact absurd hsel (hnone row hrow)
    | error e =>
      obtain ⟨-, rfl⟩ := (decodeWord_error_iff w e).mp hd
      rfl

/-! ## The illegal words (R66) -/

theorem selectFamily0_eq_none_iff (f : Fields) :
    selectFamily0 f = none ↔ f.nnn ∉ [0x0E0#12, 0x0EE#12] := by
  unfold selectFamily0
  split_ifs <;> simp_all

theorem selectFamily8_eq_none_iff (f : Fields) :
    selectFamily8 f = none ↔ f.n ∈ [0x8#4, 0x9#4, 0xA#4, 0xB#4, 0xC#4, 0xD#4, 0xF#4] := by
  unfold selectFamily8
  split
  case h_10 =>
    have hrest : ∀ n : Nibble, n ∉ [0x0#4, 0x1#4, 0x2#4, 0x3#4, 0x4#4, 0x5#4, 0x6#4, 0x7#4, 0xE#4] →
        n ∈ [0x8#4, 0x9#4, 0xA#4, 0xB#4, 0xC#4, 0xD#4, 0xF#4] := by decide
    exact iff_of_true rfl (hrest f.n (by simp_all))
  all_goals
    next hn => exact iff_of_false nofun (by rw [hn]; decide)

theorem selectFamilyE_eq_none_iff (f : Fields) : selectFamilyE f = none ↔ f.kk ∉ [0x9E#8, 0xA1#8] := by
  unfold selectFamilyE
  split_ifs <;> simp_all

theorem selectFamilyF_eq_none_iff (f : Fields) :
    selectFamilyF f = none ↔
      f.kk ∉ [0x07#8, 0x0A#8, 0x15#8, 0x18#8, 0x1E#8, 0x29#8, 0x33#8, 0x55#8, 0x65#8] := by
  unfold selectFamilyF
  split
  case h_10 => exact iff_of_true rfl (by simp_all)
  all_goals
    next hkk => exact iff_of_false nofun (by rw [hkk]; decide)

/-- The dispatch finds no instruction in six of the families only, the spaces of R66. -/
theorem select_eq_none_iff (f : Fields) :
    select f = none ↔
      (f.itype = 0x0 ∧ f.nnn ∉ [0x0E0#12, 0x0EE#12]) ∨
      (f.itype = 0x5 ∧ f.n ≠ 0x0) ∨
      (f.itype = 0x8 ∧ f.n ∈ [0x8#4, 0x9#4, 0xA#4, 0xB#4, 0xC#4, 0xD#4, 0xF#4]) ∨
      (f.itype = 0x9 ∧ f.n ≠ 0x0) ∨
      (f.itype = 0xE ∧ f.kk ∉ [0x9E#8, 0xA1#8]) ∨
      (f.itype = 0xF ∧ f.kk ∉ [0x07#8, 0x0A#8, 0x15#8, 0x18#8, 0x1E#8, 0x29#8, 0x33#8, 0x55#8, 0x65#8]) := by
  unfold select
  split
  case h_1 hf => simp [hf, selectFamily0_eq_none_iff]
  case h_9 hf => simp [hf, selectFamily8_eq_none_iff]
  case h_15 hf => simp [hf, selectFamilyE_eq_none_iff]
  case h_16 hf => simp [hf, selectFamilyF_eq_none_iff]
  case h_17 =>
    have hall : ∀ t : Nibble, t ∈ [0x0#4, 0x1#4, 0x2#4, 0x3#4, 0x4#4, 0x5#4, 0x6#4, 0x7#4, 0x8#4, 0x9#4, 0xA#4,
        0xB#4, 0xC#4, 0xD#4, 0xE#4, 0xF#4] := by decide
    have hf := hall f.itype
    simp_all
  all_goals
    next hf => simp [hf]

theorem mem_iff_toNat_mem {k : Nat} (b : BitVec k) (l : List (BitVec k)) :
    b ∈ l ↔ b.toNat ∈ l.map BitVec.toNat :=
  (List.mem_map_of_injective fun _ _ => BitVec.eq_of_toNat_eq).symm

/-- Settles O5: the words without an instruction by their fields, and the fields as quotients and remainders. -/
theorem illegalWordsAreTheSixSpaces : Obligations.IllegalWordsAreTheSixSpaces := by
  intro w
  obtain ⟨hitype, -, -, hn, hkk, hnnn, -, -⟩ := fieldsOfAWord.1 w
  have hfamily0 : (w.toNat < 0x1000 ∧ w.toNat ≠ 0x00E0 ∧ w.toNat ≠ 0x00EE) ↔
      (w.toNat / 0x1000 = 0 ∧ w.toNat % 0x1000 ∉ [0x0E0, 0x0EE]) := by
    simp only [List.mem_cons, List.not_mem_nil, or_false]
    omega
  rw [decodeWord_error_iff, and_iff_left rfl, select_eq_none_iff, hfamily0]
  simp only [mem_iff_toNat_mem, ← BitVec.toNat_inj, ne_eq, hitype, hn, hkk, hnnn]
  rfl

end Sys2Proof
end

section
/-! SUPPORT. The instruction cycle (40_cycle.md): the parts of a step in their order, the instruction it runs, the
PC and the output flags it leaves, and the inputs it does not read. -/

namespace Sys2Proof.Machine

/-! ## The parts of a step (R80 to R86) -/

section
variable {key : Option Key} {rnd : Byte} {s : State} {w : Word} {i : Instr} {e : Fault}

/-- The converse of `fetchWord_ok` (20_memory.md R43, R44). -/
theorem fetchWord_inv {font : FontTable} {m : Memory} {addr : Nat} (h : fetchWord font m addr = .ok w) :
    addr + 1 < 0x1000 ∧ wordOfBytes (m.read font addr) (m.read font (addr + 1)) = w := by
  by_cases hin : addr + 1 < 0x1000
  · rw [fetchWord_ok font m addr hin] at h
    exact ⟨hin, Except.ok.inj h⟩
  · rw [fetchWord_error font m addr (by omega)] at h
    cases h

theorem fetchDecode_fetchFault (hw : fetchWord s.fontGlyphs s.mem s.pc.toNat = .error e) :
    fetchDecode s = .error e := by
  simp only [fetchDecode, hw]

theorem fetchDecode_illegalWord {d : DecodeError} (hw : fetchWord s.fontGlyphs s.mem s.pc.toNat = .ok w)
    (hd : decodeWord w = .error d) : fetchDecode s = .error (.unknownOpcode w s.pc) := by
  simp only [fetchDecode, hw, hd]

/-- What the fetch and the decoding raise, the step answers (R81, R82). -/
theorem stepTransaction_fetchDecodeFault (hl : s.faultLatch = none)
    (hf : fetchDecode (s.beginStep key rnd) = .error e) : stepTransaction key rnd s = .fault e := by
  simp only [stepTransaction, hl, hf]

/-- The step on the fetched word of an instruction (R83). -/
theorem stepTransaction_fetched (hl : s.faultLatch = none)
    (hw : fetchWord s.fontGlyphs s.mem s.pc.toNat = .ok w) (hi : decodeWord w = .ok i) :
    stepTransaction key rnd s = exec i ((s.beginStep key rnd).setPc (s.pc + 2)) := by
  obtain ⟨hpc, rfl⟩ := fetchWord_inv hw
  exact stepTransaction_ok hl hpc hi

/-- `stepTransaction_next` with the fetched word written as the encoding of its instruction. -/
theorem stepTransaction_next_encode {t : State} (h : stepTransaction key rnd s = .next t) :
    s.pc.toNat + 1 < 0x1000 ∧ ∃ i, fetchWord s.fontGlyphs s.mem s.pc.toNat = .ok (encode i) ∧
      exec i ((s.beginStep key rnd).setPc (s.pc + 2)) = .next t := by
  obtain ⟨_, hpc, i, hi, hexec⟩ := stepTransaction_next h
  refine ⟨hpc, i, ?_, hexec⟩
  rw [encodeOfDecodeIsTheWord _ i hi]
  exact fetchWord_ok _ _ _ hpc

theorem encode_injective {i j : Instr} (h : encode i = encode j) : i = j := by
  have hi := decodeWord_encode i
  rw [h, decodeWord_encode j] at hi
  exact (Except.ok.inj hi).symm

/-- Settles O7: the start of the step touches neither the latch nor what the fetch reads. -/
theorem stepTransactionFollowsTheCycle : Obligations.StepTransactionFollowsTheCycle := by
  intro key rnd s
  refine ⟨fun e hl => stepTransaction_latched hl, fun e hl hw => ?_, fun w hl hw hd => ?_,
    fun w i hl hw hi => stepTransaction_fetched hl hw hi⟩
  · exact stepTransaction_fetchDecodeFault hl (fetchDecode_fetchFault (s := s.beginStep key rnd) hw)
  · exact stepTransaction_fetchDecodeFault hl (fetchDecode_illegalWord (s := s.beginStep key rnd) hw hd)

/-- Two bytes decode as their word does (30_encoding.md R60). -/
theorem decodeWord_of_decodeBytes {hi lo : Byte} {rest : List Byte}
    (h : decodeBytes [hi, lo] = .ok (i, rest)) : decodeWord (wordOfBytes hi lo) = .ok i := by
  cases hd : decodeWord (wordOfBytes hi lo) with
  | ok j => simp_all [decodeBytes]
  | error e => simp [decodeBytes, hd] at h

end

/-- Settles O8: the ticks of the turn leave latch, PC and memory alone, so the Step after them fetches the same
word. -/
theorem stepRunsTheDecodedInstruction : Obligations.StepRunsTheDecodedInstruction := by
  intro s i hl hpc hbytes
  exact stepTransaction_ok (s := s.popTurn.tickTimes s.nextTurn.ticks) hl hpc
    (decodeWord_of_decodeBytes hbytes)

/-! ## PC after each instruction (R87) -/

/-- A key is pressed when its code is the register's value as an integer (45_keypad_timers.md R160). -/
theorem State.keyPressed_iff (s : State) (b : Byte) :
    s.keyPressed b = true ↔ ∃ k, s.keyIn = some k ∧ k.toNat = b.toNat := by
  cases hk : s.keyIn with
  | none => simp [State.keyPressed, hk]
  | some k =>
    have hbyte : (keyByte k).toNat = k.toNat := BitVec.toNat_setWidth_of_le (by decide)
    simp only [State.keyPressed, hk, beq_iff_eq, Option.some.injEq, exists_eq_left']
    rw [← BitVec.toNat_inj, hbyte]

/-- The two ends of a skip, where PC does not wrap (log 29). -/
theorem toNat_pc_skipIf {s : State} {c : Bool} {p : Prop} {f : Word} (hs : s.pc = f + 2)
    (hf : f.toNat + 1 < 0x1000) (hc : c = true ↔ p) :
    (p ∧ (s.skipIf c).pc.toNat = f.toNat + 4) ∨ (¬ p ∧ (s.skipIf c).pc.toNat = f.toNat + 2) := by
  cases c with
  | true =>
    have hskip : (s.pc + 2).toNat = f.toNat + 4 := by bv_omega
    exact .inl ⟨hc.mp rfl, hskip⟩
  | false =>
    have hstay : s.pc.toNat = f.toNat + 2 := by bv_omega
    exact .inr ⟨fun hp => Bool.false_ne_true (hc.mpr hp), hstay⟩

/-- Settles O11: the fetch leaves PC at f + 2 without a wrap, and each instruction leaves it there, skips, goes back
or puts its target there. -/
theorem pcAfterEachInstruction : Obligations.PcAfterEachInstruction := by
  intro key rnd s t i hfetch hstep skipped
  obtain ⟨hpc, j, hfetch', h⟩ := stepTransaction_next_encode hstep
  obtain rfl : i = j := encode_injective (Except.ok.inj (hfetch.symm.trans hfetch'))
  have hnext : (s.pc + 2).toNat = s.pc.toNat + 2 := by bv_omega
  cases i with
  | jp nnn => obtain rfl := Host.Outcome.next.inj h; exact toNat_zextAddr nnn
  | call nnn => obtain ⟨_, rfl⟩ := execCall_next h; exact toNat_zextAddr nnn
  | jpV0 nnn =>
    obtain rfl := Host.Outcome.next.inj h
    show (zextAddr nnn + zextByte (s.getV 0)).toNat = _
    rw [BitVec.toNat_add, toNat_zextAddr, toNat_zextByte]
    omega
  | ret =>
    obtain ⟨hsp, rfl⟩ := execRet_next h
    have hsp : 0 < s.sp.val := hsp
    exact ⟨s.sp.val - 1, by omega, by omega, rfl⟩
  | seByte | seReg =>
    obtain rfl := Host.Outcome.next.inj h
    exact toNat_pc_skipIf rfl hpc beq_iff_eq
  | sneByte | sneReg =>
    obtain rfl := Host.Outcome.next.inj h
    exact toNat_pc_skipIf rfl hpc bne_iff_ne
  | skp x =>
    obtain rfl := Host.Outcome.next.inj h
    exact toNat_pc_skipIf rfl hpc (State.keyPressed_iff _ _)
  | sknp x =>
    obtain rfl := Host.Outcome.next.inj h
    exact toNat_pc_skipIf rfl hpc (by rw [Bool.not_eq_true', ← Bool.not_eq_true, State.keyPressed_iff]; rfl)
  | ldRegKey x =>
    obtain rfl := Host.Outcome.next.inj h
    cases key with
    | none => exact .inl ⟨rfl, show s.pc + 2 - 2 = s.pc by bv_omega⟩
    | some k => exact .inr ⟨nofun, hnext⟩
  | drw x y n => obtain ⟨_, _, _, rfl⟩ := execDrw_next h; exact hnext
  | ldBcd x => obtain ⟨_, rfl⟩ := execLdBcd_next h; exact hnext
  | storeRegs x => obtain ⟨_, rfl⟩ := execStoreRegs_next h; exact hnext
  | loadRegs x => obtain ⟨_, rfl⟩ := execLoadRegs_next h; exact hnext
  | _ => obtain rfl := Host.Outcome.next.inj h; exact hnext

/-! ## The output flags (R85, 10_state.md R33) -/

/-- From lowered flags 00E0 raises `clear`, Dxyn raises `draw`, and the others leave both lowered. -/
theorem exec_outputFlags {i : Instr} {s t : State} (hclear : s.clear = false) (hdraw : s.draw = false)
    (h : exec i s = .next t) :
    (t.clear = true ↔ i = .cls) ∧ (t.draw = true ↔ ∃ x y n, i = .drw x y n) := by
  cases i with
  | cls => obtain rfl := Host.Outcome.next.inj h; simp [hdraw]
  | drw x y n => obtain ⟨_, _, _, rfl⟩ := execDrw_next h; simp [hclear]
  | _ =>
    obtain ⟨_, hc, hd⟩ := (videoAndMemoryHaveTheirWriters _ s t h).1 nofun nofun
    simp [hc, hd, hclear, hdraw]

/-- Settles O12: the start of the step lowers both flags (D21). -/
theorem outputFlagsAreTheStepsOwn : Obligations.OutputFlagsAreTheStepsOwn := by
  intro s t h
  obtain ⟨_, i, hfetch, hexec⟩ := stepTransaction_next_encode (show stepTransaction _ _ _ = .next t from h)
  exact ⟨i, hfetch, exec_outputFlags rfl rfl hexec⟩

/-! ## The inputs and ST (R86, 10_state.md R30) -/

/-- Another value for the key, for the random byte or for ST. -/
inductive Replacement where
  | key (k : Option Key)
  | rnd (b : Byte)
  | sound (b : Byte)

/-- The state with that value in its place. -/
def Replacement.apply (r : Replacement) (s : State) : State :=
  match r with
  | .key k => { s with keyIn := k }
  | .rnd b => { s with rndIn := b }
  | .sound b => { s with st := b }

/-- The instruction is none of those that read the key or the random byte, or write ST. -/
def Replacement.UnusedBy (r : Replacement) (i : Instr) : Prop :=
  match r with
  | .key _ => ∀ x, i ≠ .skp x ∧ i ≠ .sknp x ∧ i ≠ .ldRegKey x
  | .rnd _ => ∀ x kk, i ≠ .rnd x kk
  | .sound _ => ∀ x, i ≠ .ldStReg x

theorem Replacement.apply_skipIf (r : Replacement) (s : State) (c : Bool) :
    (r.apply s).skipIf c = r.apply (s.skipIf c) := by
  cases r <;> cases c <;> rfl

/-- Fx0A with no key (45_keypad_timers.md R163). -/
theorem execLdRegKey_none {s : State} (x : Reg) (hk : s.keyIn = none) :
    execLdRegKey x s = .next (s.setPc (s.pc - 2)) := by
  rw [execLdRegKey, hk]

/-- Fx0A with a key (45_keypad_timers.md R163). -/
theorem execLdRegKey_some {s : State} {k : Key} (x : Reg) (hk : s.keyIn = some k) :
    execLdRegKey x s = .next (s.setV x (keyByte k)) := by
  rw [execLdRegKey, hk]

/-- An instruction commutes with a replacement that it does not use: every operand it reads is the same, and it
writes other fields. -/
theorem exec_replacement {i : Instr} {s t : State} (r : Replacement) (hr : r.UnusedBy i)
    (h : exec i s = .next t) : exec i (r.apply s) = .next (r.apply t) := by
  cases i with
  | ret => obtain ⟨hsp, rfl⟩ := execRet_next h; cases r <;> exact execRet_ok _ (by exact hsp)
  | call nnn => obtain ⟨hsp, rfl⟩ := execCall_next h; cases r <;> exact execCall_ok nnn _ (by exact hsp)
  | drw x y n =>
    obtain ⟨hrows, _⟩ := execDrw_next h
    rw [exec, execDrw_ok x y n s hrows] at h
    obtain rfl := Host.Outcome.next.inj h
    cases r <;> exact execDrw_ok x y n _ hrows
  | ldBcd x => obtain ⟨hi, rfl⟩ := execLdBcd_next h; cases r <;> exact execLdBcd_ok x _ hi
  | storeRegs x => obtain ⟨hi, rfl⟩ := execStoreRegs_next h; cases r <;> exact execStoreRegs_ok x _ hi
  | loadRegs x => obtain ⟨hi, rfl⟩ := execLoadRegs_next h; cases r <;> exact execLoadRegs_ok x _ hi
  | seByte | sneByte | seReg | sneReg =>
    obtain rfl := Host.Outcome.next.inj h
    cases r <;> exact congrArg Host.Outcome.next (Replacement.apply_skipIf _ s _)
  | skp | sknp =>
    obtain rfl := Host.Outcome.next.inj h
    cases r with
    | key => simp [Replacement.UnusedBy] at hr
    | rnd | sound => exact congrArg Host.Outcome.next (Replacement.apply_skipIf _ s _)
  | ldRegKey x =>
    cases r with
    | key => exact absurd rfl (hr x).2.2
    | rnd | sound =>
      cases hk : s.keyIn with
      | none =>
        obtain rfl := Host.Outcome.next.inj ((execLdRegKey_none x hk).symm.trans h)
        exact execLdRegKey_none (s := Replacement.apply _ s) x hk
      | some k =>
        obtain rfl := Host.Outcome.next.inj ((execLdRegKey_some x hk).symm.trans h)
        exact execLdRegKey_some (s := Replacement.apply _ s) x hk
  | rnd x kk =>
    obtain rfl := Host.Outcome.next.inj h
    cases r with
    | rnd => exact absurd rfl (hr x kk)
    | key | sound => rfl
  | ldStReg x =>
    obtain rfl := Host.Outcome.next.inj h
    cases r with
    | sound => exact absurd rfl (hr x)
    | key | rnd => rfl
  | _ => obtain rfl := Host.Outcome.next.inj h; cases r <;> rfl

/-- Settles O14: the three clauses are the three replacements. -/
theorem inputsReadOnlyByTheirInstructions : Obligations.InputsReadOnlyByTheirInstructions :=
  fun _ _ _ h => ⟨fun key hkey => exec_replacement (.key key) hkey h,
    fun rnd hrnd => exec_replacement (.rnd rnd) hrnd h, fun st hst => exec_replacement (.sound st) hst h⟩

end Sys2Proof.Machine
end

section
/-! SUPPORT. The display instructions (41_display.md): the model's placement against R91's own, the pixels that a draw
reaches, the state it leaves, and what a second draw does to the first. -/

namespace Sys2Proof.Machine

/-! ## Placement (R91) -/

/-- The model's placement is R91's formula: a placed pixel is the number that the formula gives. -/
theorem place_eq_some_iff {edge : DrawEdge} {x0 y0 : Byte} {r c : Nat} {p : Pixel} :
    place edge x0 y0 r c = some p ↔ specPlace edge x0.toNat y0.toNat r c = some p.val := by
  cases edge with
  | wrap => simp only [place_wrap, specPlace, Option.some.injEq, Fin.ext_iff]
  | clip =>
    rw [place_clip, specPlace]
    by_cases h : x0.toNat % 64 + c < 64 ∧ y0.toNat % 32 + r < 32
    · rw [dif_pos h, if_neg (by omega), Option.some.injEq, Option.some.injEq, Fin.ext_iff]
    · rw [dif_neg h, if_pos (by omega)]
      exact iff_of_false nofun nofun

/-- Settles O34: below 64 and 32 the origin is its own remainder, and no pixel is beyond an edge. -/
theorem onScreenSpritesIgnoreTheEdgeRule : Obligations.OnScreenSpritesIgnoreTheEdgeRule := by
  intro edge x0 y0 n r c hx hy hr hc
  have hcol : x0.toNat % 64 = x0.toNat := Nat.mod_eq_of_lt (by omega)
  have hrow : y0.toNat % 32 = y0.toNat := Nat.mod_eq_of_lt (by omega)
  refine ⟨_, place_onScreen edge x0 y0 r c (by omega), ?_⟩
  simp only [hcol, hrow]

/-! ## 00E0 (R90) -/

/-- Settles O32: `State.clearVideo` writes the video buffer and `clear` only. -/
theorem clearTurnsEveryPixelOff : Obligations.ClearTurnsEveryPixelOff := by
  intro s
  have hexec : exec .cls s = .next s.clearVideo := rfl
  refine ⟨rfl, s.clearVideo, hexec, fun p => ?_, rfl, rfl, rfl, rfl, fun r => rfl, ⟨rfl, rfl⟩, ⟨rfl, rfl⟩,
    exec_sameControl hexec, fun a => rfl⟩
  simp only [State.clearVideo_vid, Vector.getElem_replicate]

/-! ## The pixels that Dxyn reaches (R91, R92) -/

/-- The pixels that the n-row sprite at I reaches from (V[x], V[y]), as Dxyn lists them. -/
def State.drawPixels (s : State) (x y : Reg) (n : Nibble) : List Pixel :=
  spritePixels Config.drawEdge (s.getV x) (s.getV y) 0
    ((List.range n.toNat).map fun k => s.byteAt (s.effAddr k))

/-- The list holds the pixels of the spec's words. -/
theorem State.mem_drawPixels {s : State} {x y : Reg} {n : Nibble} {p : Pixel} :
    p ∈ s.drawPixels x y n ↔ SpriteReaches Config.drawEdge s x y n p := by
  simp only [State.drawPixels, mem_spritePixels, mem_rowPixels, place_eq_some_iff, SpriteReaches,
    List.length_map, List.length_range, List.getElem_map, List.getElem_range, Nat.zero_add, exists_prop,
    exists_and_left]

/-- Fifteen rows are fewer than the screen's 32, so not even WRAP reaches a pixel twice. -/
theorem State.drawPixels_nodup (s : State) (x y : Reg) (n : Nibble) : (s.drawPixels x y n).Nodup := by
  refine spritePixels_nodup _ _ _ _ _ ?_
  have hn := n.isLt
  rw [List.length_map, List.length_range]
  omega

/-! ## The state that Dxyn leaves (R92) -/

/-- The pixels of the sprite turned over, `draw` raised and the collision in VF. -/
def State.drawn (s : State) (x y : Reg) (n : Nibble) : State :=
  let toggled := togglePixels s.vid (s.drawPixels x y n)
  (s.setDrawn toggled.1).setV regF (flagByte toggled.2)

section
variable {s t : State} {x y : Reg} {n : Nibble} {p : Pixel}

theorem exec_drw (h : n.toNat = 0 ∨ s.i.toNat + n.toNat ≤ 0x1000) :
    exec (.drw x y n) s = .next (s.drawn x y n) :=
  execDrw_ok x y n s h

theorem eq_drawn_of_exec (h : exec (.drw x y n) s = .next t) : t = s.drawn x y n := by
  obtain ⟨hrows, _⟩ := execDrw_next h
  exact Host.Outcome.next.inj (h.symm.trans (exec_drw hrows))

theorem State.drawn_vid_of_reaches (h : SpriteReaches Config.drawEdge s x y n p) :
    (s.drawn x y n).vid[p.val] = !s.vid[p.val] := by
  refine (getElem_togglePixels _ _ (s.drawPixels_nodup x y n) p).trans ?_
  rw [decide_eq_true (State.mem_drawPixels.mpr h), Bool.bne_true]

theorem State.drawn_vid_of_not_reaches (h : ¬ SpriteReaches Config.drawEdge s x y n p) :
    (s.drawn x y n).vid[p.val] = s.vid[p.val] := by
  refine (getElem_togglePixels _ _ (s.drawPixels_nodup x y n) p).trans ?_
  rw [decide_eq_false (mt State.mem_drawPixels.mp h), Bool.bne_false]

theorem State.drawn_vid_eq_iff (s : State) (x y : Reg) (n : Nibble) (p : Pixel) :
    (s.drawn x y n).vid[p.val] = s.vid[p.val] ↔ ¬ SpriteReaches Config.drawEdge s x y n p := by
  by_cases h : SpriteReaches Config.drawEdge s x y n p
  · rw [State.drawn_vid_of_reaches h]
    exact iff_of_false (Bool.not_ne_self _) (not_not_intro h)
  · exact iff_of_true (State.drawn_vid_of_not_reaches h) h

/-- VF, written last, is the collision, also where x or y is VF (R210). -/
theorem State.drawn_getV_regF (s : State) (x y : Reg) (n : Nibble) :
    (s.drawn x y n).getV regF = flagByte ((s.drawPixels x y n).any fun p => s.vid[p.val]) := by
  rw [← togglePixels_collision _ _ (s.drawPixels_nodup x y n)]
  exact State.getV_setV_self ..

theorem State.drawn_collision (s : State) (x y : Reg) (n : Nibble) :
    ((∃ p : Pixel, SpriteReaches Config.drawEdge s x y n p ∧ s.vid[p.val] = true) ∧
        (s.drawn x y n).getV regF = 1) ∨
      ((∀ p : Pixel, SpriteReaches Config.drawEdge s x y n p → s.vid[p.val] = false) ∧
        (s.drawn x y n).getV regF = 0) := by
  simp only [State.drawn_getV_regF, ← State.mem_drawPixels]
  cases hit : (s.drawPixels x y n).any fun p => s.vid[p.val] with
  | true => exact .inl ⟨List.any_eq_true.mp hit, rfl⟩
  | false => exact .inr ⟨fun p hp => Bool.eq_false_iff.mpr (List.any_eq_false.mp hit p hp), rfl⟩

theorem State.drawn_getV_regF_eq_one_iff (s : State) (x y : Reg) (n : Nibble) :
    (s.drawn x y n).getV regF = 1 ↔
      ∃ p : Pixel, SpriteReaches Config.drawEdge s x y n p ∧ s.vid[p.val] = true := by
  obtain ⟨hit, hF⟩ | ⟨hmiss, hF⟩ := s.drawn_collision x y n
  · exact iff_of_true hF hit
  · rw [hF]
    refine iff_of_false (by decide) ?_
    rintro ⟨p, hp, hon⟩
    exact Bool.false_ne_true ((hmiss p hp).symm.trans hon)

theorem State.drawn_getV_of_ne (x y : Reg) (n : Nibble) {r : Reg} (hr : r ≠ regF) :
    (s.drawn x y n).getV r = s.getV r :=
  (State.getV_setV ..).trans (if_neg hr)

/-- A draw leaves I and memory alone, and the two coordinates if neither is VF, so the same sprite reaches the same
pixels again. -/
theorem spriteReaches_drawn_iff (hx : x ≠ regF) (hy : y ≠ regF) :
    SpriteReaches Config.drawEdge (s.drawn x y n) x y n p ↔ SpriteReaches Config.drawEdge s x y n p := by
  have hbyte (r : Nat) : (s.drawn x y n).byteAt ((s.drawn x y n).effAddr r) = s.byteAt (s.effAddr r) := rfl
  simp only [SpriteReaches, hbyte, State.drawn_getV_of_ne x y n hx, State.drawn_getV_of_ne x y n hy]

theorem State.drawn_drawn_vid (hx : x ≠ regF) (hy : y ≠ regF) :
    ((s.drawn x y n).drawn x y n).vid[p.val] = s.vid[p.val] := by
  by_cases h : SpriteReaches Config.drawEdge s x y n p
  · rw [State.drawn_vid_of_reaches ((spriteReaches_drawn_iff hx hy).mpr h), State.drawn_vid_of_reaches h,
      Bool.not_not]
  · rw [State.drawn_vid_of_not_reaches (mt (spriteReaches_drawn_iff hx hy).mp h),
      State.drawn_vid_of_not_reaches h]

end

/-- Settles O33: the word is the instruction's encoding, and `State.drawn` is the state it leaves. -/
theorem drawTogglesTheSpritesPixels : Obligations.DrawTogglesTheSpritesPixels := by
  intro x y n s hrows
  have hexec : exec (.drw x y n) s = .next (s.drawn x y n) := exec_drw hrows
  exact ⟨decodeWord_encode (.drw x y n), s.drawn x y n, hexec, s.drawn_vid_eq_iff x y n,
    s.drawn_collision x y n, rfl, rfl, rfl, rfl, fun r hr => State.drawn_getV_of_ne x y n hr, ⟨rfl, rfl⟩,
    ⟨rfl, rfl⟩, exec_sameControl hexec, fun a => rfl⟩

/-- Settles O35: both draws reach the same pixels, and those that were off are the ones the second finds on. -/
theorem drawingTwiceRestoresTheBuffer : Obligations.DrawingTwiceRestoresTheBuffer := by
  intro x y n s t u hx hy hst htu
  obtain rfl := eq_drawn_of_exec hst
  obtain rfl := eq_drawn_of_exec htu
  refine ⟨fun p => State.drawn_drawn_vid hx hy, ?_, ?_⟩
  · rw [State.drawn_getV_regF_eq_one_iff]
    refine exists_congr fun p => ?_
    rw [spriteReaches_drawn_iff hx hy]
    refine and_congr_right fun hp => ?_
    rw [State.drawn_vid_of_reaches hp, Bool.not_eq_true']
  · exact (State.drawn_collision _ x y n).imp And.right And.right

end Sys2Proof.Machine
end

section
/-! SUPPORT. The control-flow instructions (42_control_flow.md): jumps and skips that write PC and nothing else, and the
call and the return, which move the stack depth by one entry. -/

namespace Sys2Proof.Machine

/-! ## Jumps (R101, R107) -/

theorem setsPc_setPc (s : State) (a : Word) : SetsPc s a (.next (s.setPc a)) :=
  ⟨_, rfl, rfl, fun _ => rfl, rfl, ⟨rfl, rfl⟩, ⟨rfl, rfl⟩, ⟨fun _ => rfl, rfl, rfl⟩,
    ⟨rfl, rfl, rfl, rfl, rfl, rfl, rfl⟩, fun _ => rfl⟩

/-- Settles O37: the target is nnn at the width of PC. -/
theorem jumpSetsPc : Obligations.JumpSetsPc := by
  intro nnn s
  rw [BitVec.ofNat_toNat]
  exact ⟨decodeWord_encode (.jp nnn), setsPc_setPc s (zextAddr nnn)⟩

/-- Settles O40: the target is the sum of the two zero-extended values, at most 0xFFF + 0xFF (D5). -/
theorem jumpPlusV0SetsPc : Obligations.JumpPlusV0SetsPc := by
  intro nnn s
  rw [BitVec.ofNat_add, BitVec.ofNat_toNat, BitVec.ofNat_toNat]
  refine ⟨decodeWord_encode (.jpV0 nnn), setsPc_setPc s _, ?_⟩
  have hn := nnn.isLt
  have hb := (s.getV 0).isLt
  omega

/-! ## Skips (R103 to R106) -/

theorem setsPc_skipIf_of_true {s : State} {c : Bool} (hc : c = true) :
    SetsPc s (s.pc + 2) (.next (s.skipIf c)) := by
  subst hc
  exact setsPc_setPc s (s.pc + 2)

theorem setsPc_skipIf_of_false {s : State} {c : Bool} (hc : c = false) : SetsPc s s.pc (.next (s.skipIf c)) := by
  subst hc
  exact setsPc_setPc s s.pc

/-- The two skips on a comparison of two bytes are complementary. -/
theorem setsPc_skipIf_beq_bne (s : State) (a b : Byte) :
    (a = b → SetsPc s (s.pc + 2) (.next (s.skipIf (a == b))) ∧ SetsPc s s.pc (.next (s.skipIf (a != b)))) ∧
    (a ≠ b → SetsPc s s.pc (.next (s.skipIf (a == b))) ∧ SetsPc s (s.pc + 2) (.next (s.skipIf (a != b)))) :=
  ⟨fun h => ⟨setsPc_skipIf_of_true (beq_iff_eq.mpr h), setsPc_skipIf_of_false (bne_eq_false_iff_eq.mpr h)⟩,
    fun h => ⟨setsPc_skipIf_of_false (beq_eq_false_iff_ne.mpr h), setsPc_skipIf_of_true (bne_iff_ne.mpr h)⟩⟩

/-- Settles O41, by the two skips on the comparison of V[x] with kk. -/
theorem byteSkipsCompareWithKk : Obligations.ByteSkipsCompareWithKk := by
  intro x kk s
  exact ⟨decodeWord_encode (.seByte x kk), decodeWord_encode (.sneByte x kk),
    setsPc_skipIf_beq_bne s (s.getV x) kk⟩

/-- Settles O42, by the two skips on the comparison of V[x] with V[y]. -/
theorem registerSkipsCompareTwoRegisters : Obligations.RegisterSkipsCompareTwoRegisters := by
  intro x y s
  exact ⟨decodeWord_encode (.seReg x y), decodeWord_encode (.sneReg x y),
    setsPc_skipIf_beq_bne s (s.getV x) (s.getV y)⟩

/-! ## The call and the return (R100, R102) -/

/-- With j + 1 entries the return goes to the entry j and leaves j entries. -/
theorem exec_ret_of_sp_eq_succ {s : State} {j : Nat} (hj : j < 16) (h : s.sp.val = j + 1) :
    exec .ret s = .next (State.setPc { s with sp := ⟨j, by omega⟩ } s.stack[j]) := by
  have hret := execRet_ok s (by omega)
  simp only [h, Nat.add_sub_cancel] at hret
  exact hret

/-- Settles O36: the return is a pop, which writes the depth, and then a jump. -/
theorem returnPopsIntoPc : Obligations.ReturnPopsIntoPc := by
  intro s
  refine ⟨decodeWord_encode .ret, execRet_empty s, fun j hj h => ?_⟩
  have hexec := exec_ret_of_sp_eq_succ hj h
  exact ⟨_, hexec, rfl, rfl, rfl, rfl, fun r => rfl, ⟨rfl, rfl⟩, ⟨fun p => rfl, rfl, rfl⟩,
    exec_sameControl hexec, fun a => rfl⟩

/-- Settles O38: the call is a push of PC, which writes one entry and the depth, and then a jump. -/
theorem callPushesTheReturnAddress : Obligations.CallPushesTheReturnAddress := by
  intro nnn s
  refine ⟨decodeWord_encode (.call nnn), execCall_full nnn s, fun hs => ?_⟩
  have hexec : exec (.call nnn) s = _ := execCall_ok nnn s hs
  refine ⟨_, hexec, toNat_zextAddr nnn, rfl, fun j hj => ?_, rfl, fun r => rfl, ⟨rfl, rfl⟩,
    ⟨fun p => rfl, rfl, rfl⟩, exec_sameControl hexec, fun a => rfl⟩
  simp only [State.setPc_stack, Vector.getElem_set, eq_comm]

/-- Settles O39: the return pops the entry that the call pushed, at the depth of before the call, and the pop writes
no entry. -/
theorem returnResumesAfterTheCall : Obligations.ReturnResumesAfterTheCall := by
  intro nnn s t t' hcall hstack hsp
  obtain ⟨hs, rfl⟩ := execCall_next hcall
  have hstack : t'.stack = s.stack.set s.sp.val s.pc hs := hstack
  have hsp : t'.sp.val = s.sp.val + 1 := congrArg Fin.val hsp
  refine ⟨_, exec_ret_of_sp_eq_succ hs hsp, ?_, rfl, fun j hj hne => ?_⟩
  · simp only [State.setPc_pc, hstack, Vector.getElem_set_self]
  · simp only [State.setPc_stack, hstack, Vector.getElem_set_ne hs hj hne.symm]

end Sys2Proof.Machine
end

section
/-! SUPPORT. The register and ALU instructions (43_alu.md): a write of one register, or of a result and then the flag,
leaves everything else alone, and the results and flags are the arithmetic of R131. -/

namespace Sys2Proof.Machine

/-! ## The two shapes of write -/

theorem sameBesidesRegs_withV (s : State) (v : Vector Byte 16) : SameBesidesRegs s { s with v := v } :=
  ⟨rfl, ⟨rfl, rfl⟩, ⟨rfl, rfl⟩, ⟨fun _ => rfl, rfl, rfl⟩, ⟨rfl, rfl, rfl, rfl, rfl, rfl, rfl⟩, fun _ => rfl⟩

theorem writesReg_setV (s : State) (x : Reg) (b : Byte) : WritesReg s x b (.next (s.setV x b)) :=
  ⟨_, rfl, fun r => State.getV_setV s x r b, rfl, sameBesidesRegs_withV s _⟩

theorem flagByte_cases {f : Bool} {flag : Prop} (hf : f = true ↔ flag) :
    (flag ∧ flagByte f = 1) ∨ (¬ flag ∧ flagByte f = 0) := by
  cases f with
  | true => exact .inl ⟨hf.mp rfl, rfl⟩
  | false => exact .inr ⟨fun h => Bool.false_ne_true (hf.mpr h), rfl⟩

/-- VF is written last, so it holds the flag also where x is VF (R210). -/
theorem writesRegThenFlag_setResultAndFlag (s : State) (x : Reg) (b : Byte) {f : Bool} {flag : Prop}
    (hf : f = true ↔ flag) : WritesRegThenFlag s x b flag (.next (s.setResultAndFlag x b f)) := by
  refine ⟨_, rfl, ?_, fun r hr => State.getV_setResultAndFlag s x r b f hr, rfl, sameBesidesRegs_withV s _⟩
  rw [State.getV_setResultAndFlag_regF]
  exact flagByte_cases hf

/-! ## Results modulo 256 and flags on the exact values (R131) -/

theorem addResult_eq (a b : Byte) : addResult a b = BitVec.ofNat 8 ((a.toNat + b.toNat) % 256) :=
  BitVec.eq_of_toNat_eq (Nat.mod_mod ..).symm

theorem shlResult_eq (a : Byte) : shlResult a = BitVec.ofNat 8 (a.toNat * 2 % 256) :=
  BitVec.eq_of_toNat_eq (Nat.mod_mod ..).symm

/-- The integer difference, which may be negative, and the one that 256 is added to have the same remainder. -/
theorem subResult_eq (a b : Byte) : subResult a b = BitVec.ofNat 8 ((256 + a.toNat - b.toNat) % 256) := by
  apply BitVec.eq_of_toNat_eq
  have hb := b.isLt
  simp only [subResult, BitVec.toNat_ofInt, BitVec.toNat_ofNat]
  omega

theorem addCarry_iff (a b : Byte) : addCarry a b = true ↔ a.toNat + b.toNat > 255 :=
  decide_eq_true_iff

theorem subNoBorrow_iff (a b : Byte) : subNoBorrow a b = true ↔ a.toNat > b.toNat :=
  decide_eq_true_iff

theorem shrOut_iff (a : Byte) : shrOut a = true ↔ a.toNat % 2 = 1 := by
  rw [shrOut, BitVec.getLsbD, Nat.testBit_zero, decide_eq_true_iff]

/-- Bit 7 is the highest of a byte. -/
theorem shlOut_iff (a : Byte) : shlOut a = true ↔ a.toNat ≥ 128 := by
  rw [show shlOut a = a.msb from (BitVec.msb_eq_getLsbD_last a).symm, BitVec.msb_eq_decide]
  exact decide_eq_true_iff

/-! ## Without a flag (R120 to R125, R132) -/

/-- Settles O43: each load is one register write. -/
theorem loadsWriteOnlyVx : Obligations.LoadsWriteOnlyVx := by
  intro x y kk s
  exact ⟨decodeWord_encode (.ldByte x kk), writesReg_setV s x kk, decodeWord_encode (.ldReg x y),
    writesReg_setV s x (s.getV y)⟩

/-- Settles O44: one register write, of the sum modulo 256. -/
theorem addImmediateWritesNoFlag : Obligations.AddImmediateWritesNoFlag := by
  intro x kk s
  rw [← addResult_eq]
  exact ⟨decodeWord_encode (.addByte x kk), writesReg_setV s x (addResult (s.getV x) kk)⟩

/-- Settles O45: one register write each, of the two operands joined bit by bit. -/
theorem logicWritesNoFlag : Obligations.LogicWritesNoFlag := by
  intro x y s
  exact ⟨decodeWord_encode (.orReg x y), decodeWord_encode (.andReg x y), decodeWord_encode (.xorReg x y),
    ⟨_, writesReg_setV s x (s.getV x ||| s.getV y), fun _ => BitVec.getLsbD_or⟩,
    ⟨_, writesReg_setV s x (s.getV x &&& s.getV y), fun _ => BitVec.getLsbD_and⟩,
    ⟨_, writesReg_setV s x (s.getV x ^^^ s.getV y), fun _ => BitVec.getLsbD_xor⟩⟩

/-- Settles O49: one register write, of the random byte masked bit by bit. -/
theorem randomIsMaskedByKk : Obligations.RandomIsMaskedByKk := by
  intro x kk s
  exact ⟨decodeWord_encode (.rnd x kk), _, writesReg_setV s x (s.rndIn &&& kk), fun _ => BitVec.getLsbD_and⟩

/-! ## With a flag (R126 to R130) -/

/-- Settles O46: the sum modulo 256, and the carry of the exact sum. -/
theorem addSetsCarry : Obligations.AddSetsCarry := by
  intro x y s
  rw [← addResult_eq]
  exact ⟨decodeWord_encode (.addReg x y), writesRegThenFlag_setResultAndFlag s x _ (addCarry_iff ..)⟩

/-- Settles O47: the two subtractions differ in the order of the operands only. -/
theorem subtractionsSetStrictNoBorrow : Obligations.SubtractionsSetStrictNoBorrow := by
  intro x y s
  rw [← subResult_eq, ← subResult_eq]
  exact ⟨decodeWord_encode (.subReg x y), writesRegThenFlag_setResultAndFlag s x _ (subNoBorrow_iff ..),
    decodeWord_encode (.subnReg x y), writesRegThenFlag_setResultAndFlag s x _ (subNoBorrow_iff ..)⟩

/-- Settles O48: neither shift reads V[y], and the flag is the end bit of the old V[x]. -/
theorem shiftsPutTheLostBitInVf : Obligations.ShiftsPutTheLostBitInVf := by
  intro x y s
  rw [← shlResult_eq]
  exact ⟨decodeWord_encode (.shr x y), writesRegThenFlag_setResultAndFlag s x _ (shrOut_iff _),
    decodeWord_encode (.shl x y), writesRegThenFlag_setResultAndFlag s x _ (shlOut_iff _)⟩

end Sys2Proof.Machine
end

section
/-! SUPPORT. The index register and memory instructions (44_index_memory.md): those that write I and nothing else, the
two stores, which write a run of bytes, and the load, which writes the first registers. -/

namespace Sys2Proof.Machine

/-! ## Writes of I (R140 to R142) -/

theorem setsI_setI (s : State) (a : Word) : SetsI s a (.next (s.setI a)) :=
  ⟨_, rfl, rfl, rfl, fun _ => rfl, ⟨rfl, rfl⟩, ⟨rfl, rfl⟩, ⟨fun _ => rfl, rfl, rfl⟩,
    ⟨rfl, rfl, rfl, rfl, rfl, rfl, rfl⟩, fun _ => rfl⟩

/-- Settles O50: the address is nnn at the width of I. -/
theorem loadIndexSetsI : Obligations.LoadIndexSetsI := by
  intro nnn s
  rw [BitVec.ofNat_toNat]
  exact ⟨decodeWord_encode (.ldI nnn), setsI_setI s (zextAddr nnn)⟩

/-- A sum of 16-bit words is the sum of the two numbers modulo 2^16 (D6). -/
theorem add_zextByte_eq (a : Word) (b : Byte) :
    a + zextByte b = BitVec.ofNat 16 ((a.toNat + b.toNat) % 65536) := by
  apply BitVec.eq_of_toNat_eq
  rw [BitVec.toNat_add, toNat_zextByte, BitVec.toNat_ofNat, Nat.mod_mod]

/-- Settles O51: two writes of I, of the wrapped sum (D6) and of the address from font base 0 (D16). -/
theorem indexArithmetic : Obligations.IndexArithmetic := by
  intro x s
  have hfont : 0x000 + (s.getV x).toNat * 5 = (s.getV x).toNat * 5 := Nat.zero_add _
  rw [← add_zextByte_eq, ← hfont]
  exact ⟨decodeWord_encode (.addI x), setsI_setI s _, decodeWord_encode (.ldFont x), setsI_setI s _⟩

/-! ## Stores (R143, R144) -/

/-- Replacing memory by a run of writes that fits in it changes the bytes of the run and nothing else. -/
theorem storesBytes_setMem_writeAll {s : State} (hm : s.mem.wf s.fontGlyphs = true) {base : Nat} {bs : List Byte}
    (hfit : base + bs.length ≤ 0x1000) :
    StoresBytes s base bs (.next (s.setMem (s.mem.writeAll s.fontGlyphs base bs))) := by
  have hread := Memory.read_writeAll hm base bs (.inr hfit)
  refine ⟨_, rfl, fun k hk => ?inside, fun a ha => ?outside, rfl, rfl, fun _ => rfl, ⟨rfl, rfl⟩, ⟨rfl, rfl⟩,
    ⟨fun _ => rfl, rfl, rfl⟩, ⟨rfl, rfl, rfl, rfl, rfl, rfl, rfl⟩⟩
  case inside =>
    have hin : base ≤ base + k ∧ base + k < base + bs.length := by omega
    simp only [State.byteAt_setMem, hread, dif_pos hin, Nat.add_sub_cancel_left]
  case outside =>
    have hout : ¬ (base ≤ a ∧ a < base + bs.length) := by omega
    rw [State.byteAt_setMem, hread, dif_neg hout]
    rfl

/-- Settles O52: the three digits are one run of writes, which fits or faults at the higher of I and 0x1000. -/
theorem bcdStoresThreeDigits : Obligations.BcdStoresThreeDigits := by
  intro x s hm
  refine ⟨decodeWord_encode (.ldBcd x), fun hin => ?_, fun hout => ?_⟩
  · rw [exec, execLdBcd_ok x s hin]
    exact storesBytes_setMem_writeAll hm (bs := bcdDigits (s.getV x)) hin
  · have hout : 0x1000 < s.i.toNat + 3 := Nat.lt_succ_of_le hout
    rw [exec, execLdBcd_outOfBounds x s hout]
    exact faultsAtFirstByte_max (by decide) hout

theorem State.firstRegs_eq_map_getV (s : State) (x : Reg) :
    s.firstRegs x = (List.range (x.toNat + 1)).map fun k => s.getV (BitVec.ofNat 4 k) := by
  refine List.ext_getElem ?_ fun k hk _ => ?_
  · rw [s.length_firstRegs, List.length_map, List.length_range]
  · rw [s.getElem_firstRegs x k hk, List.getElem_map, List.getElem_range]

/-- Settles O53: V0 to V[x] are one run of writes, which fits in memory. -/
theorem storeRegistersFillsMemory : Obligations.StoreRegistersFillsMemory := by
  intro x s hm hin
  have hfit : s.effAddr 0 + (s.firstRegs x).length ≤ 0x1000 := by
    rw [s.length_firstRegs]
    exact hin
  rw [exec, execStoreRegs_ok x s hin, ← s.firstRegs_eq_map_getV]
  exact ⟨decodeWord_encode (.storeRegs x), storesBytes_setMem_writeAll hm hfit⟩

/-! ## The load (R145) -/

/-- Registers loaded from a list of x + 1 bytes: V0 to V[x] hold them, the others are as they were. -/
theorem State.getV_setFirstRegs_map_range (s : State) (f : Nat → Byte) (x r : Reg) :
    (s.setFirstRegs ((List.range (x.toNat + 1)).map f)).getV r =
      if r.toNat ≤ x.toNat then f r.toNat else s.getV r := by
  simp only [State.getV_setFirstRegs, List.length_map, List.length_range, List.getElem_map, List.getElem_range,
    dite_eq_ite, Nat.lt_succ_iff]

/-- Settles O54: the load writes the register file only, so I and memory are as they were (D15). -/
theorem loadRegistersReadsMemory : Obligations.LoadRegistersReadsMemory := by
  intro x s hin
  exact ⟨decodeWord_encode (.loadRegs x), _, execLoadRegs_ok x s hin, State.getV_setFirstRegs_map_range s _ x, rfl,
    sameBesidesRegs_withV s _⟩

end Sys2Proof.Machine
end

section
/-! SUPPORT. The keypad and timer instructions (45_keypad_timers.md): two skips on the step's key, the key wait, which
writes one register or PC, and the transfers between a register and a timer. -/

namespace Sys2Proof.Machine

/-! ## The keypad (R160, R161, R163) -/

theorem State.keyPressed_eq_false_iff (s : State) (b : Byte) :
    s.keyPressed b = false ↔ ∀ k, s.keyIn = some k → k.toNat ≠ b.toNat := by
  rw [← Bool.not_eq_true, s.keyPressed_iff, not_exists]
  exact forall_congr' fun _ => not_and

/-- The two skips on a condition and on its negation are complementary. -/
theorem setsPc_skipIf_not (s : State) (c : Bool) :
    (c = true → SetsPc s (s.pc + 2) (.next (s.skipIf c)) ∧ SetsPc s s.pc (.next (s.skipIf (!c)))) ∧
    (c = false → SetsPc s s.pc (.next (s.skipIf c)) ∧ SetsPc s (s.pc + 2) (.next (s.skipIf (!c)))) :=
  ⟨fun h => ⟨setsPc_skipIf_of_true h, setsPc_skipIf_of_false (congrArg not h)⟩,
    fun h => ⟨setsPc_skipIf_of_false h, setsPc_skipIf_of_true (congrArg not h)⟩⟩

/-- Settles O56: the two hypotheses are the two values of `State.keyPressed`, and ExA1 skips on its negation. -/
theorem keySkipsCompareWithTheKey : Obligations.KeySkipsCompareWithTheKey := by
  intro x s
  obtain ⟨hpressed, hnot⟩ := setsPc_skipIf_not s (s.keyPressed (s.getV x))
  exact ⟨decodeWord_encode (.skp x), decodeWord_encode (.sknp x),
    fun hkey => hpressed ((s.keyPressed_iff _).mpr hkey),
    fun hkey => hnot ((s.keyPressed_eq_false_iff _).mpr hkey)⟩

/-- Settles O57: the wait is one register write, of the key's code, or with no key one write of PC (D26). -/
theorem keyWaitTakesTheKeyOrRewinds : Obligations.KeyWaitTakesTheKeyOrRewinds := by
  intro x s
  refine ⟨decodeWord_encode (.ldRegKey x), fun k hk => ?key, fun hk => ?noKey⟩
  case key =>
    rw [exec, execLdRegKey_some x hk, BitVec.ofNat_toNat]
    exact writesReg_setV s x (keyByte k)
  case noKey =>
    rw [exec, execLdRegKey_none x hk]
    exact setsPc_setPc s (s.pc - 2)

/-! ## The timers (R162, R164, R165) -/

theorem setsTimers_with (s : State) (dt st : Byte) : SetsTimers s dt st (.next { s with dt := dt, st := st }) :=
  ⟨_, rfl, rfl, rfl, rfl, rfl, fun _ => rfl, ⟨rfl, rfl⟩, ⟨fun _ => rfl, rfl, rfl⟩,
    ⟨rfl, rfl, rfl, rfl, rfl, rfl, rfl⟩, fun _ => rfl⟩

/-- Settles O58: one register write, and two writes of the timers that put the other timer's old value back. -/
theorem timerTransfers : Obligations.TimerTransfers := by
  intro x s
  exact ⟨decodeWord_encode (.ldRegDt x), writesReg_setV s x s.dt,
    decodeWord_encode (.ldDtReg x), setsTimers_with s (s.getV x) s.st,
    decodeWord_encode (.ldStReg x), setsTimers_with s s.dt (s.getV x)⟩

end Sys2Proof.Machine
end

section
/-! SUPPORT. The faults (60_exceptions.md): which instruction raises which, the latch that the transactions leave set,
and the ticks (section 4). -/

namespace Sys2Proof.Machine

/-! ## The faults of an instruction (R171 to R173) -/

/-- The taxonomy of the faults that an instruction raises in a state: 2nnn on a full stack, 00EE on an empty one, and
the four accesses of which a byte is not in memory. -/
inductive Raises (s : State) : Instr → Fault → Prop
  | call {nnn : Addr} (full : s.sp.val = 16) : Raises s (.call nnn) .stackOverflow
  | ret (empty : s.sp.val = 0) : Raises s .ret .stackUnderflow
  | drw {x y : Reg} {n : Nibble} (rows : n.toNat ≠ 0) (out : 0x1000 < s.i.toNat + n.toNat) :
      Raises s (.drw x y n) (.outOfBounds (max s.i.toNat 0x1000))
  | ldBcd {x : Reg} (out : 0x1000 < s.i.toNat + 3) :
      Raises s (.ldBcd x) (.outOfBounds (max s.i.toNat 0x1000))
  | storeRegs {x : Reg} (out : 0x1000 < s.i.toNat + x.toNat + 1) :
      Raises s (.storeRegs x) (.outOfBounds (max s.i.toNat 0x1000))
  | loadRegs {x : Reg} (out : 0x1000 < s.i.toNat + x.toNat + 1) :
      Raises s (.loadRegs x) (.outOfBounds (max s.i.toNat 0x1000))

theorem exec_of_raises {i : Instr} {s : State} {e : Fault} (h : Raises s i e) : exec i s = .fault e := by
  cases h with
  | call full => exact execCall_full _ s full
  | ret empty => exact execRet_empty s empty
  | drw rows out => exact execDrw_outOfBounds _ _ _ s rows out
  | ldBcd out => exact execLdBcd_outOfBounds _ s out
  | storeRegs out => exact execStoreRegs_outOfBounds _ s out
  | loadRegs out => exact execLoadRegs_outOfBounds _ s out

/-- Outside the taxonomy every instruction completes. -/
theorem exec_next_or_raises (i : Instr) (s : State) : (∃ t, exec i s = .next t) ∨ ∃ e, Raises s i e := by
  cases i with
  | call nnn =>
    have hsp : s.sp.val < 16 ∨ s.sp.val = 16 := Nat.lt_or_eq_of_le (Nat.le_of_lt_succ s.sp.isLt)
    exact hsp.imp (fun h => ⟨_, execCall_ok nnn s h⟩) fun h => ⟨_, .call h⟩
  | ret => exact (Nat.eq_zero_or_pos s.sp.val).symm.imp (fun h => ⟨_, execRet_ok s h⟩) fun h => ⟨_, .ret h⟩
  | drw x y n =>
    by_cases h : n.toNat = 0 ∨ s.i.toNat + n.toNat ≤ 0x1000
    · exact .inl ⟨_, execDrw_ok x y n s h⟩
    · obtain ⟨hn, hout⟩ := not_or.mp h
      exact .inr ⟨_, .drw hn (Nat.lt_of_not_le hout)⟩
  | ldBcd x => exact (le_or_gt _ _).imp (fun h => ⟨_, execLdBcd_ok x s h⟩) fun h => ⟨_, .ldBcd h⟩
  | storeRegs x => exact (le_or_gt _ _).imp (fun h => ⟨_, execStoreRegs_ok x s h⟩) fun h => ⟨_, .storeRegs h⟩
  | loadRegs x => exact (le_or_gt _ _).imp (fun h => ⟨_, execLoadRegs_ok x s h⟩) fun h => ⟨_, .loadRegs h⟩
  | _ => exact .inl ⟨_, rfl⟩

theorem exec_fault_iff {i : Instr} {s : State} {e : Fault} : exec i s = .fault e ↔ Raises s i e := by
  refine ⟨fun h => ?_, exec_of_raises⟩
  obtain ⟨t, ht⟩ | ⟨e', he'⟩ := exec_next_or_raises i s
  · exact nomatch h.symm.trans ht
  · obtain rfl := Host.Outcome.fault.inj (h.symm.trans (exec_of_raises he'))
    exact he'

/-- Settles O23, by the cases of the taxonomy. -/
theorem faultsAreThoseOfTheTaxonomy : Obligations.FaultsAreThoseOfTheTaxonomy := by
  intro i s
  simp only [exec_fault_iff]
  refine ⟨exec_ne_refused i s, ⟨fun h => ?overflow, ?_⟩, ⟨fun h => ?underflow, ?_⟩,
    fun e h hover hunder => ?others⟩
  case overflow =>
    cases h with
    | call full => exact ⟨⟨_, rfl⟩, full⟩
  case underflow =>
    cases h with
    | ret empty => exact ⟨rfl, empty⟩
  · rintro ⟨⟨nnn, rfl⟩, full⟩
    exact .call full
  · rintro ⟨rfl, empty⟩
    exact .ret empty
  case others =>
    have haddr : max s.i.toNat 0x1000 ≥ 0x1000 := Nat.le_max_right ..
    cases h with
    | call => exact absurd rfl hover
    | ret => exact absurd rfl hunder
    | drw => exact ⟨⟨_, rfl, haddr⟩, .inl ⟨_, _, _, rfl⟩⟩
    | ldBcd => exact ⟨⟨_, rfl, haddr⟩, .inr ⟨_, .inl rfl⟩⟩
    | storeRegs => exact ⟨⟨_, rfl, haddr⟩, .inr ⟨_, .inr (.inl rfl)⟩⟩
    | loadRegs => exact ⟨⟨_, rfl, haddr⟩, .inr ⟨_, .inr (.inr rfl)⟩⟩

/-! ## The fault of an illegal word (R174) -/

/-- Settles O10: a word that no row selects does not decode, and the ticks of the turn leave latch, PC and memory
alone. -/
theorem illegalWordFaultsWithItsAddress : Obligations.IllegalWordFaultsWithItsAddress := by
  intro s w hl hw hnone
  obtain ⟨-, -, hillegal⟩ := decoderIsTheOpcodeMap.2 w
  obtain ⟨-, -, hstep, -⟩ := stepTransactionFollowsTheCycle s.nextTurn.key s.nextTurn.rnd
    (s.popTurn.tickTimes s.nextTurn.ticks)
  exact hstep w hl hw (hillegal hnone)

/-! ## The Faulted machine (R177, R181, 40_cycle.md R84) -/

section
variable {s : State} {e : Fault}

theorem step_latched (hl : s.faultLatch = some e) : step s = .fault e :=
  stepTransaction_latched (s := s.popTurn.tickTimes s.nextTurn.ticks) hl

theorem serveStep_latched (key : Option Key) (rnd : Byte) (hl : s.faultLatch = some e) :
    serveStep key rnd s = (s, .error e) := by
  rw [serveStep_fault (stepTransaction_latched hl), State.latchFault_latched hl]

theorem serveLoadRom_faultLatch (bytes : List Byte) (s : State) :
    (serveLoadRom bytes s).1.faultLatch = s.faultLatch := by
  unfold serveLoadRom
  split_ifs <;> rfl

theorem transact_faultLatch_latched {t : Transaction} (ht : t ≠ .reset) (hl : s.faultLatch = some e) :
    (transact t s).1.faultLatch = some e := by
  cases t with
  | reset => exact absurd rfl ht
  | loadRom bytes => exact (serveLoadRom_faultLatch bytes s).trans hl
  | step key rnd => rw [transact, serveStep_latched key rnd hl, hl]
  | tick => rw [transact, serveTick_latched hl, hl]
  | readVideo => exact hl

end

/-- Settles O20: fault entry sets the latch, and a latched machine refuses `Step` and `Tick`. -/
theorem faultIsLatchedAndReturned : Obligations.FaultIsLatchedAndReturned := by
  intro key rnd s e hl h
  have hlatched : (s.latchFault e).faultLatch = some e := State.latchFault_faultLatch hl e
  exact ⟨s.latchFault e, serveStep_fault h, hlatched, step_latched hlatched,
    fun key' rnd' => serveStep_latched key' rnd' hlatched, serveTick_latched hlatched⟩

/-- Settles O21: each transaction but `Reset` keeps a latched fault, and the reset state has none. -/
theorem onlyResetLeavesFaulted : Obligations.OnlyResetLeavesFaulted := by
  intro ts s e hl
  refine ⟨fun hreset => ?_, rfl⟩
  refine transactAll_preserves (P := fun u => u.faultLatch = some e) (fun t ht u hu => ?_) hl
  exact transact_faultLatch_latched (ne_of_mem_of_not_mem ht hreset) hu

/-! ## Ticks (R185) -/

/-- Settles O19: a tick that is served is `State.tick`, and a latched machine refuses it. -/
theorem tickCountsDownToZero : Obligations.TickCountsDownToZero := by
  intro s
  refine ⟨fun hl => ?_, fun e hl => serveTick_latched hl⟩
  exact ⟨s.tick, serveTick_unfaulted hl, toNat_tickByte s.dt, toNat_tickByte s.st, rfl⟩

end Sys2Proof.Machine
end

section
/-! SUPPORT. Reset, the loading of a ROM and the timers between two instructions (70_reset_and_hazards.md). -/

namespace Sys2Proof.Machine

/-! ## A ROM before the first step (R205, D18) -/

section
variable {s : State} {bytes : List Byte}

theorem serveLoadRom_fits (hs : s.bootPhase = .awaitingRom) (hfit : bytes.length ≤ 0xE00) :
    serveLoadRom bytes s = (s.loadRom bytes, .ok) := by
  rw [serveLoadRom, if_pos hs, if_pos ((wellFormedRom_iff bytes).mpr hfit)]

theorem serveLoadRom_tooLarge (hs : s.bootPhase = .awaitingRom) (hlong : 0xE00 < bytes.length) :
    serveLoadRom bytes s = (s, .error (.romTooLarge bytes.length)) := by
  rw [serveLoadRom, if_pos hs, if_neg (mt (wellFormedRom_iff bytes).mp hlong.not_ge)]

theorem serveLoadRom_notAdmitted (hs : s.bootPhase ≠ .awaitingRom) :
    serveLoadRom bytes s = (s, .refused .loadRomNotAdmitted) := by
  rw [serveLoadRom, if_neg hs]

/-- A ROM that is awaited is loaded or too long, never refused. -/
theorem serveLoadRom_ne_refused (hs : s.bootPhase = .awaitingRom) (r : Refusal) :
    (serveLoadRom bytes s).2 ≠ .refused r := by
  rcases le_or_gt bytes.length 0xE00 with hfit | hlong
  · rw [serveLoadRom_fits hs hfit]; nofun
  · rw [serveLoadRom_tooLarge hs hlong]; nofun

end

/-- Settles O17: a ROM that fits is one run of writes at 0x200, which ends by 0x1000, and one of more than 0xE00
bytes is not written. -/
theorem loadRomCopiesOrRejects : Obligations.LoadRomCopiesOrRejects := by
  intro s bytes hm hs
  refine ⟨fun hfit => ?_, serveLoadRom_tooLarge hs⟩
  have hread := State.byteAt_loadRom hm hfit
  refine ⟨s.loadRom bytes, serveLoadRom_fits hs hfit, fun k hk => ?inside, fun a ha => ?outside, rfl⟩
  case inside =>
    have hin : 0x200 ≤ 0x200 + k ∧ 0x200 + k < 0x200 + bytes.length := by omega
    simp only [hread, dif_pos hin, Nat.add_sub_cancel_left]
  case outside =>
    rw [hread, dif_neg (by omega)]

/-! ## The boot phase after the first step (R206, D18) -/

section
variable {key : Option Key} {rnd : Byte} {s : State}

theorem stepTransaction_bootPhase {t : State} (h : stepTransaction key rnd s = .next t) :
    t.bootPhase = .running := by
  obtain ⟨_, _, i, _, hexec⟩ := stepTransaction_next h
  obtain ⟨_, hboot, _⟩ := exec_sameControl hexec
  exact hboot

theorem State.latchFault_bootPhase (hs : s.faultLatch = none ∨ s.bootPhase = .running) (e : Fault) :
    (s.latchFault e).bootPhase = .running := by
  cases hl : s.faultLatch with
  | none => simp only [State.latchFault, hl]
  | some e' =>
    rw [State.latchFault_latched hl]
    exact hs.resolve_left (hl ▸ Option.some_ne_none e')

/-- A `Step` that is served ends the boot order, whether it completes or faults; one that is refused keeps the
phase. -/
theorem serveStep_bootPhase (hs : s.faultLatch = none ∨ s.bootPhase = .running) :
    (serveStep key rnd s).1.bootPhase = .running := by
  cases h : stepTransaction key rnd s with
  | next t => rw [serveStep_next h]; exact stepTransaction_bootPhase h
  | fault e => rw [serveStep_fault h]; exact State.latchFault_bootPhase hs e
  | refused r => exact absurd h (stepTransaction_ne_refused key rnd s r)

/-- Only `Reset` leaves the last phase of the boot order. -/
theorem transact_bootPhase_running {t : Transaction} (ht : t ≠ .reset) (hs : s.bootPhase = .running) :
    (transact t s).1.bootPhase = .running := by
  cases t with
  | reset => exact absurd rfl ht
  | loadRom bytes => rw [transact, serveLoadRom_notAdmitted (by simp [hs])]; exact hs
  | step key rnd => exact serveStep_bootPhase (.inr hs)
  | tick =>
    cases hl : s.faultLatch with
    | none => rw [transact, serveTick_unfaulted hl]; exact hs
    | some e => rw [transact, serveTick_latched hl]; exact hs
  | readVideo => exact hs

end

/-- Settles O18: the `Step` ends the boot order, which no transaction but `Reset` begins again. -/
theorem noRomAfterTheFirstStep : Obligations.NoRomAfterTheFirstStep := by
  rintro ts key rnd s u bytes hl hreset rfl
  have hstepped : (transact (.step key rnd) s).1.bootPhase = .running := serveStep_bootPhase (.inl hl)
  have hrunning : (transactAll (.step key rnd :: ts) s).bootPhase = .running :=
    transactAll_preserves (P := fun u => u.bootPhase = .running)
      (fun t ht u hu => transact_bootPhase_running (ne_of_mem_of_not_mem ht hreset) hu) hstepped
  exact ⟨serveLoadRom_notAdmitted (by simp [hrunning]), serveLoadRom_ne_refused rfl _⟩

/-! ## The delay timer between two instructions (R214) -/

/-- Settles O59: Fx15 puts V[x] in DT, the ticks count DT down, and Fx07 copies it. -/
theorem timerReadsBackLessTheTicks : Obligations.TimerReadsBackLessTheTicks := by
  intro x y n s t hl h
  obtain rfl : s.setDt (s.getV x) = t := Host.Outcome.next.inj h
  have hticks : transactAll (List.replicate n .tick) (s.setDt (s.getV x)) = (s.setDt (s.getV x)).tickTimes n :=
    transactAll_ticks_unfaulted n hl
  rw [hticks]
  refine ⟨_, rfl, ?_⟩
  rw [State.getV_setV_self, State.tickTimes_dt, State.setDt_dt]
  exact toNat_countDown n (s.getV x)

/-! ## The state after `Reset` (R200, R201, D3) -/

/-- A state after `Reset`, by the transaction or right after reset, is one that another `Reset` leaves as it is. -/
theorem State.resetAgain_eq_self {r : State}
    (h : (∃ s, r = (transact .reset s).1) ∨ ∃ font, r = State.resetWith font) : r.resetAgain = r := by
  obtain ⟨s, rfl⟩ | ⟨font, rfl⟩ := h <;> rfl

theorem State.byteAt_resetAgain (s : State) (a : Nat) :
    s.resetAgain.byteAt a = Config.resetByte s.fontGlyphs a := rfl

theorem State.getV_resetAgain (s : State) (x : Reg) : s.resetAgain.getV x = 0 :=
  Vector.getElem_replicate x.isLt

/-- Settles O15: the font is what memory reads as at the first 80 addresses while it lists no byte. -/
theorem resetLeavesTheSourcesValues : Obligations.ResetLeavesTheSourcesValues := by
  refine ⟨fun s => ⟨rfl, s.resetAgain_fontGlyphs⟩, State.resetWith_fontGlyphs, rfl, fun r hr => ?_⟩
  rw [← State.resetAgain_eq_self hr]
  refine ⟨rfl, rfl, fun a ha => ?_⟩
  rw [State.byteAt_resetAgain]
  exact resetByte_font ha

/-- Settles O16: the zeros are those of `State.resetAgain`, and past the font memory reads as 0 while it lists no
byte. -/
theorem resetLeavesZerosElsewhere : Obligations.ResetLeavesZerosElsewhere := by
  intro r hr
  rw [← State.resetAgain_eq_self hr]
  exact ⟨r.getV_resetAgain, rfl, rfl, rfl, fun j hj => Vector.getElem_replicate hj,
    fun p => Vector.getElem_replicate p.isLt, fun a ha _ => (r.byteAt_resetAgain a).trans (resetByte_zero ha),
    rfl, rfl, rfl, rfl⟩

end Sys2Proof.Machine
end
